-- ==== Sys2Proof/Word.lean ====
section
/-!
DEFINITION. The bit-vector types of the fabric's wires and registers (spec/00_scope.md R7, 30_encoding.md R80, R81),
and the byte storage of a device as a list of cells.
-/

namespace Sys2Proof

/-- One byte. -/
abbrev Byte := BitVec 8

/-- An address: a request address, a beat address, a device base, a device length or an offset (`ADDR_WIDTH`, R7, D1). -/
abbrev Addr := BitVec 64

/-- A value of the read-data or the write-data bus (`DATA_WIDTH`, R7, D2). -/
abbrev Data := BitVec 64

/-- The write byte-enable mask (`STRB_WIDTH`, R7, D2). -/
abbrev Strobe := BitVec 8

/-- The `size` field: log2 of the bytes of a beat (`SIZE_WIDTH`, R7, R87). -/
abbrev SizeField := BitVec 3

/-- The `len` field: the number of beats minus one (`LEN_WIDTH`, R7, R84). -/
abbrev LenField := BitVec 8

/-- The raw `burst` field (`BURST_WIDTH`, R7, R85). -/
abbrev BurstField := BitVec 2

/-- A response code as it stands on `bresp` or `rresp` (`RESP_WIDTH`, R7, R86). -/
abbrev RespField := BitVec 2

/-- A transaction id. The fabric only copies ids, so an id is held as a number. `ID_WIDTH` is open (D3), and an id on a wire
lies below `2 ^ ID_WIDTH`. DESIGN CHOICE, safe: notes/assumptions/8.md. -/
abbrev TxnId := Nat

/-- The byte storage of a device: cells of an offset and a byte. What it means, and its canonical form, are in
Machine/Ops.lean (`Memory.read`, `Memory.write`, `Memory.wf`). -/
structure Memory where
  /-- The bytes that differ from what an unlisted offset reads as, offsets strictly rising. -/
  cells : List Host.Cell
deriving DecidableEq, Repr, Inhabited

end Sys2Proof
end

