-- ==== Sys2Proof/Config.lean ====
section
/-!
DEFINITION. What an implementation fixes: the parameters of spec/00_scope.md R7, the encoding tables of 30_encoding.md
R85 and R86, and the free values (constants without a body, about which nothing can be proved).
-/

namespace Sys2Proof

/-! ## Encoding tables (30_encoding.md R85, R86; the spec's decision D5, notes/assumptions/7.md) -/

/-- The burst modes (R85). -/
inductive BurstMode where
  /-- The same address on every beat. -/
  | fixed
  /-- INCREMENTING, written INCR: the address grows per beat. -/
  | incr
  /-- The address cycles within a window. -/
  | wrap
deriving DecidableEq, Repr

/-- The code of a burst mode on `arburst` and `awburst` (R85). -/
def BurstMode.code : BurstMode → BurstField
  | .fixed => 0b00#2
  | .incr => 0b01#2
  | .wrap => 0b10#2

/-- The burst value that is no mode (R85, R134). -/
def badBurstCode : BurstField := 0b11#2

/-- The mode a raw burst field stands for, none for the invalid value (R85). -/
def Config.burstMode (b : BurstField) : Option BurstMode :=
  if b = 0b00#2 then some .fixed
  else if b = 0b01#2 then some .incr
  else if b = 0b10#2 then some .wrap
  else none

/-- The four response codes (R86). -/
inductive Resp where
  /-- OK. -/
  | okay
  /-- EXCLUSIVE-OK. -/
  | exokay
  /-- SLAVE-ERROR, which the fabric never drives. -/
  | slverr
  /-- DECODE-ERROR, the fabric's only error outcome (60_exceptions.md R260). -/
  | decerr
deriving DecidableEq, Repr

/-- The code of a response on `bresp` and `rresp` (R86). -/
def Resp.code : Resp → RespField
  | .okay => 0b00#2
  | .exokay => 0b01#2
  | .slverr => 0b10#2
  | .decerr => 0b11#2

/-- log2 of the page size of the page rule (`PAGE_SHIFT`, R7, 41_burst_address.md R136). -/
def Config.pageShift : Nat := 12

/-! ## Parameters (00_scope.md R7) -/

/-- Which WRAP address formula the generator uses (`WRAP_FORMULA`, R7, D36). -/
inductive WrapFormula where
  /-- The formula of 41_burst_address.md R133. -/
  | literal
  /-- The formula of R138, which adds the start offset. -/
  | axi
deriving DecidableEq, Repr

/-- The parameters of R7 that the spec leaves to the model's user. `State` holds one value of this type, no step writes it,
and a claim about every state is a claim about every choice of them. -/
structure Params where
  /-- `ID_WIDTH`, open (D3). -/
  idWidth : Nat
  /-- `CAPACITY`, slots of the exclusive monitor, at least 1 (D34). -/
  capacity : Nat
  /-- `RESERVE_ON_DECERR` (D11, 43_read_engine.md R190). -/
  reserveOnDecErr : Bool
  /-- `WRAP_FORMULA` (D36). -/
  wrapFormula : WrapFormula
  /-- The devices stepped first within an edge, by position. The others follow in registration order, so the empty list is
  the registration order of 45_fabric_step.md R248 (D41, U11). notes/assumptions/18.md. -/
  stepFirst : List Nat
deriving DecidableEq, Repr

/-- The defaults of R7. `ID_WIDTH` has none in the spec: 4 is a DESIGN CHOICE, unsafe for a claim that rests on it
(notes/assumptions/6.md). -/
def Params.default : Params where
  idWidth := 4
  capacity := 2
  reserveOnDecErr := true
  wrapFormula := .literal
  stepFirst := []

/-- What a wire of `ID_WIDTH` bits carries of a number (R81). -/
def Params.fitId (p : Params) (id : TxnId) : TxnId := id % 2 ^ p.idWidth

/-! ## Free values: payload wires while their valid is low (U5, D7; notes/assumptions/12.md) -/

/-- `rdata` while `rvalid` is 0, drawn by the counter `State.draws`. -/
opaque Config.idleRdata : Nat → Data
/-- `rresp` while `rvalid` is 0. -/
opaque Config.idleRresp : Nat → RespField
/-- `rlast` while `rvalid` is 0. -/
opaque Config.idleRlast : Nat → Bool
/-- `rid` while `rvalid` is 0. -/
opaque Config.idleRid : Nat → TxnId
/-- `bresp` while `bvalid` is 0. -/
opaque Config.idleBresp : Nat → RespField
/-- `bid` while `bvalid` is 0. -/
opaque Config.idleBid : Nat → TxnId

/-! ## Free values: devices the spec does not describe (R243 to R247, U2, U3, U4, U18; notes/assumptions/13.md) -/

/-- A device the spec does not describe: which device it is (`model`), whether it has the optional `step` (R246) and the
optional `set_interrupt_level` (R247), its byte storage, and everything else it holds, as plain numbers. -/
structure OutsideDevice where
  model : Nat
  hasStep : Bool
  irqController : Bool
  mem : Memory
  hidden : List Nat
deriving DecidableEq, Repr, Inhabited

/-- A call of `set_interrupt_level(source_id, level)` that a device makes on the controller at position `target` (R247). The spec
gives neither argument a type or a width; that both are natural numbers, without a bound, is a DESIGN CHOICE, safe
(notes/assumptions/27.md). -/
structure IrqCall where
  target : Nat
  /-- `source_id`, as a number (notes/assumptions/27.md). -/
  source : Nat
  /-- `level`, as a number: a two-valued level is 0 or 1, and a controller may tell more apart (notes/assumptions/27.md). -/
  level : Nat
deriving DecidableEq, Repr, Inhabited

/-- What an operation of an outside device does: the value it returns, the bytes of its own storage it changes, its hidden
state after, and the interrupt levels it sets on other devices. -/
structure OutsideEffect where
  value : Data
  stores : List Host.Cell
  hidden : List Nat
  irqs : List IrqCall
deriving DecidableEq, Repr, Inhabited

/-- `read(offset, size)` of an outside device: any function of the device's state (R244, C3 of 90_conflicts.md). -/
opaque Config.outsideRead : OutsideDevice → Addr → SizeField → OutsideEffect

/-- Which byte of an outside device's storage bit `lane` of the mask selects (R245: device-defined). -/
opaque Config.outsideLane : OutsideDevice → Addr → SizeField → Nat → Nat

/-- The byte an outside device holds, after a write, where the mask's bit `lane` selects it (R245: device-defined). -/
opaque Config.outsideLaneByte : OutsideDevice → Addr → Data → SizeField → Strobe → Nat → Byte

/-- The hidden state and interrupt calls of an outside device's `write` (its value and stores are not used: a write returns
no value, and its stores are those of the mask's lanes, R245). -/
opaque Config.outsideWrite : OutsideDevice → Addr → Data → SizeField → Strobe → OutsideEffect

/-- `step()` of an outside device; the number is the draw that stands for its asynchronous input (R246;
notes/assumptions/16.md). -/
opaque Config.outsideStep : OutsideDevice → Nat → OutsideEffect

/-- `set_interrupt_level(source, level)` of an outside device that is an interrupt controller (R247; its value and its
interrupt calls are not used, notes/assumptions/15.md). Both arguments are natural numbers, which is the model's choice
(notes/assumptions/27.md). -/
opaque Config.outsideSetIrq : OutsideDevice → Nat → Nat → OutsideEffect

end Sys2Proof
end

