-- ==== Sys2Proof/Syntax.lean ====
section
/-!
DEFINITION. The request kinds of the fabric: one constructor per row of spec/opcode_table.json (30_encoding.md R90).
-/

namespace Sys2Proof

/-- A request, as its descriptor gives it (30_encoding.md R89): the kind, `size` (log2 of the bytes of a beat, R87) and `len`
(the number of beats minus one, R84). Address and id travel beside the descriptor on the wires and select nothing. -/
inductive Instr where
  /-- `RD.FIXED`: read, FIXED burst (R192). -/
  | rdFixed (size len : Nat)
  /-- `RD.INCR`: read, incrementing burst (R193). -/
  | rdIncr (size len : Nat)
  /-- `RD.WRAP`: read, wrapping burst (R194). -/
  | rdWrap (size len : Nat)
  /-- `RD.BADBURST`: read, invalid burst value (R195). -/
  | rdBadburst (size len : Nat)
  /-- `RDX.FIXED`: exclusive read, FIXED burst (R196). -/
  | rdxFixed (size len : Nat)
  /-- `RDX.INCR`: exclusive read, incrementing burst (R197). -/
  | rdxIncr (size len : Nat)
  /-- `RDX.WRAP`: exclusive read, wrapping burst (R198). -/
  | rdxWrap (size len : Nat)
  /-- `RDX.BADBURST`: exclusive read, invalid burst value (R199). -/
  | rdxBadburst (size len : Nat)
  /-- `WR.FIXED`: write, FIXED burst (R219). -/
  | wrFixed (size len : Nat)
  /-- `WR.INCR`: write, incrementing burst (R220). -/
  | wrIncr (size len : Nat)
  /-- `WR.WRAP`: write, wrapping burst (R221). -/
  | wrWrap (size len : Nat)
  /-- `WR.BADBURST`: write, invalid burst value (R222). -/
  | wrBadburst (size len : Nat)
  /-- `WRX.FIXED`: exclusive write, FIXED burst (R223). -/
  | wrxFixed (size len : Nat)
  /-- `WRX.INCR`: exclusive write, incrementing burst (R224). -/
  | wrxIncr (size len : Nat)
  /-- `WRX.WRAP`: exclusive write, wrapping burst (R225). -/
  | wrxWrap (size len : Nat)
  /-- `WRX.BADBURST`: exclusive write, invalid burst value (R226). -/
  | wrxBadburst (size len : Nat)
deriving DecidableEq, Repr

/-- The operand `size` of a request. -/
def Instr.size : Instr → Nat
  | .rdFixed size _ => size
  | .rdIncr size _ => size
  | .rdWrap size _ => size
  | .rdBadburst size _ => size
  | .rdxFixed size _ => size
  | .rdxIncr size _ => size
  | .rdxWrap size _ => size
  | .rdxBadburst size _ => size
  | .wrFixed size _ => size
  | .wrIncr size _ => size
  | .wrWrap size _ => size
  | .wrBadburst size _ => size
  | .wrxFixed size _ => size
  | .wrxIncr size _ => size
  | .wrxWrap size _ => size
  | .wrxBadburst size _ => size

/-- The operand `len` of a request. -/
def Instr.len : Instr → Nat
  | .rdFixed _ len => len
  | .rdIncr _ len => len
  | .rdWrap _ len => len
  | .rdBadburst _ len => len
  | .rdxFixed _ len => len
  | .rdxIncr _ len => len
  | .rdxWrap _ len => len
  | .rdxBadburst _ len => len
  | .wrFixed _ len => len
  | .wrIncr _ len => len
  | .wrWrap _ len => len
  | .wrBadburst _ len => len
  | .wrxFixed _ len => len
  | .wrxIncr _ len => len
  | .wrxWrap _ len => len
  | .wrxBadburst _ len => len

end Sys2Proof
end

