-- ==== Sys2Proof/WellFormed.lean ====
section
/-!
DEFINITION. When a request's operands fit their fields (spec/30_encoding.md R81, 00_scope.md R7). R92 refuses no encoding, so
these two checks are all: every value the fields can hold is well formed.
-/

namespace Sys2Proof

/-- `size` fits its `SIZE_WIDTH = 3` bits. -/
def Instr.sizeFits (i : Instr) : Bool := decide (i.size < 8)

/-- `len` fits its `LEN_WIDTH = 8` bits. -/
def Instr.lenFits (i : Instr) : Bool := decide (i.len < 256)

/-- Both operands fit their fields. -/
def Instr.wellFormed (i : Instr) : Bool := i.sizeFits && i.lenFits

end Sys2Proof
end

