-- ==== Sys2Proof/Decode.lean ====
section
/-!
DEFINITION. The request descriptor of spec/30_encoding.md R89: decoding it to a request, and encoding a request as one.
-/

namespace Sys2Proof

/-! ## The fields of a descriptor (R89) -/

/-- Bit 15: 0 = read-address channel, 1 = write-address channel. -/
def descDir (d : BitVec 16) : Bool := d.getLsbD 15

/-- Bit 14: `lock`. -/
def descLock (d : BitVec 16) : Bool := d.getLsbD 14

/-- Bits 13:12: the raw burst field. -/
def descBurst (d : BitVec 16) : BurstField := d.extractLsb' 12 2

/-- Bits 10:8: `size`. -/
def descSize (d : BitVec 16) : SizeField := d.extractLsb' 8 3

/-- Bits 7:0: `len`. -/
def descLen (d : BitVec 16) : LenField := d.extractLsb' 0 8

/-- The descriptor of the given fields; bit 11 (`z`) is 0. -/
def packDescriptor (dir lock : Bool) (burst : BurstField) (size : SizeField) (len : LenField) : BitVec 16 :=
  BitVec.ofBool dir ++ (BitVec.ofBool lock ++ (burst ++ (0#1 ++ (size ++ len))))

/-! ## Decoding -/

/-- The request of a descriptor. Bits 15:12 alone select the kind (R89); bit 11 is not read (DEDUCED, safe:
notes/assumptions/5.md). Every descriptor is a request (R92). -/
def decodeDescriptor (d : BitVec 16) : Instr :=
  let size := (descSize d).toNat
  let len := (descLen d).toNat
  match descDir d, descLock d, Config.burstMode (descBurst d) with
  | false, false, some .fixed => .rdFixed size len
  | false, false, some .incr => .rdIncr size len
  | false, false, some .wrap => .rdWrap size len
  | false, false, none => .rdBadburst size len
  | false, true, some .fixed => .rdxFixed size len
  | false, true, some .incr => .rdxIncr size len
  | false, true, some .wrap => .rdxWrap size len
  | false, true, none => .rdxBadburst size len
  | true, false, some .fixed => .wrFixed size len
  | true, false, some .incr => .wrIncr size len
  | true, false, some .wrap => .wrWrap size len
  | true, false, none => .wrBadburst size len
  | true, true, some .fixed => .wrxFixed size len
  | true, true, some .incr => .wrxIncr size len
  | true, true, some .wrap => .wrxWrap size len
  | true, true, none => .wrxBadburst size len

/-- Why bytes are no request. -/
inductive DecodeReject where
  /-- Fewer than the two bytes of a descriptor are there. -/
  | truncated
deriving DecidableEq, Repr

/-- The descriptor of two bytes, the byte of bits 7:0 first (DESIGN CHOICE, safe: notes/assumptions/4.md). -/
def descriptorOfBytes (b0 b1 : Byte) : BitVec 16 := b1 ++ b0

/-- The two bytes of a descriptor, the byte of bits 7:0 first. -/
def bytesOfDescriptor (d : BitVec 16) : List Byte := [d.extractLsb' 0 8, d.extractLsb' 8 8]

/-- The request at the front of some bytes and the bytes after it, or a rejection by name. -/
def decode : List Byte → Except DecodeReject (Instr × List Byte)
  | b0 :: b1 :: rest => .ok (decodeDescriptor (descriptorOfBytes b0 b1), rest)
  | _ => .error .truncated

/-- What the decoder reads from an instruction whose bits are `w`, of which the low `nbits` count. A descriptor is 16 bits
and nothing follows it, so a word with a bit set above them is no request. -/
def decodeTableWord (nbits w : Nat) : Option Instr :=
  let v := w % 2 ^ nbits
  if v < 2 ^ 16 then
    match decode (bytesOfDescriptor (BitVec.ofNat 16 v)) with
    | .ok (i, _) => some i
    | .error _ => none
  else none

/-! ## Encoding -/

/-- What a request's kind and operands are, field by field (R89). -/
structure Request where
  /-- Set for a write. -/
  dir : Bool
  /-- Set for an exclusive access (R88). -/
  lock : Bool
  /-- The raw burst field (R85). -/
  burst : BurstField
  size : SizeField
  len : LenField
deriving DecidableEq, Repr

/-- The fields of each request kind (R90). -/
def Instr.request : Instr → Request
  | .rdFixed size len => ⟨false, false, BurstMode.fixed.code, .ofNat 3 size, .ofNat 8 len⟩
  | .rdIncr size len => ⟨false, false, BurstMode.incr.code, .ofNat 3 size, .ofNat 8 len⟩
  | .rdWrap size len => ⟨false, false, BurstMode.wrap.code, .ofNat 3 size, .ofNat 8 len⟩
  | .rdBadburst size len => ⟨false, false, badBurstCode, .ofNat 3 size, .ofNat 8 len⟩
  | .rdxFixed size len => ⟨false, true, BurstMode.fixed.code, .ofNat 3 size, .ofNat 8 len⟩
  | .rdxIncr size len => ⟨false, true, BurstMode.incr.code, .ofNat 3 size, .ofNat 8 len⟩
  | .rdxWrap size len => ⟨false, true, BurstMode.wrap.code, .ofNat 3 size, .ofNat 8 len⟩
  | .rdxBadburst size len => ⟨false, true, badBurstCode, .ofNat 3 size, .ofNat 8 len⟩
  | .wrFixed size len => ⟨true, false, BurstMode.fixed.code, .ofNat 3 size, .ofNat 8 len⟩
  | .wrIncr size len => ⟨true, false, BurstMode.incr.code, .ofNat 3 size, .ofNat 8 len⟩
  | .wrWrap size len => ⟨true, false, BurstMode.wrap.code, .ofNat 3 size, .ofNat 8 len⟩
  | .wrBadburst size len => ⟨true, false, badBurstCode, .ofNat 3 size, .ofNat 8 len⟩
  | .wrxFixed size len => ⟨true, true, BurstMode.fixed.code, .ofNat 3 size, .ofNat 8 len⟩
  | .wrxIncr size len => ⟨true, true, BurstMode.incr.code, .ofNat 3 size, .ofNat 8 len⟩
  | .wrxWrap size len => ⟨true, true, BurstMode.wrap.code, .ofNat 3 size, .ofNat 8 len⟩
  | .wrxBadburst size len => ⟨true, true, badBurstCode, .ofNat 3 size, .ofNat 8 len⟩

/-- The descriptor of a request's fields. -/
def Request.descriptor (q : Request) : BitVec 16 := packDescriptor q.dir q.lock q.burst q.size q.len

/-- The descriptor of a request. -/
def encodeDescriptor (i : Instr) : BitVec 16 := i.request.descriptor

/-- The bytes of a request. -/
def encode (i : Instr) : List Byte := bytesOfDescriptor (encodeDescriptor i)

end Sys2Proof
end

