-- ==== Sys2Proof/Machine/State.lean ====
section
/-!
DEFINITION. The state of the fabric as plain data (spec/10_state.md R20 to R25), the wires of its five channels
(30_encoding.md R80), the reasons a step can stop, and the state after reset (10_state.md R32, 70_reset_and_hazards.md R280).
-/

namespace Sys2Proof.Machine

/-! ## The transaction registers -/

/-- The states of the read engine (43_read_engine.md). -/
inductive ReadState where
  | idle
  | sending
deriving DecidableEq, Repr

/-- The states of the write engine (44_write_engine.md). -/
inductive WriteState where
  | idle
  | acceptingData
  | responding
deriving DecidableEq, Repr

/-- The read-transaction register `st.R` (R21). -/
structure ReadReg where
  state : ReadState
  /-- Index of the beat being presented; a natural number that does not wrap (D15). -/
  beat : Nat
  /-- The device's value for the current beat, none when absent. -/
  cache : Option Data
  addr : Addr
  size : SizeField
  /-- The raw burst value, the invalid one included. -/
  burst : BurstField
  id : TxnId
  len : LenField
  lock : Bool
deriving DecidableEq, Repr

/-- The write-transaction register `st.W` (R22). -/
structure WriteReg where
  state : WriteState
  /-- Index of the next data beat; a natural number that does not wrap (D15). -/
  beat : Nat
  addr : Addr
  size : SizeField
  burst : BurstField
  id : TxnId
  len : LenField
  lock : Bool
  /-- The response the engine will return. -/
  pending : Resp
deriving DecidableEq, Repr

/-! ## The exclusive monitor -/

/-- A reservation slot (R23): `addr` and `size` mean nothing while `valid` is false. -/
structure Slot where
  valid : Bool
  addr : Addr
  size : SizeField
deriving DecidableEq, Repr

/-- The exclusive monitor `st.M` (R23): as many slots as `CAPACITY`, and the replacement cursor. -/
structure Monitor where
  slots : List Slot
  cursor : Nat
deriving DecidableEq, Repr

/-! ## The registry and the devices -/

/-- A device and the state it holds (R25): the fixtures of 95_test_vectors.md section 1, or any device the spec does not
describe (00_scope.md R5; notes/assumptions/13.md). -/
inductive Device where
  /-- `TRAM(L)`: a RAM of `length` bytes. -/
  | tram (length : Nat) (mem : Memory)
  /-- `CNT`: one register `c`. -/
  | cnt (c : Data)
  /-- `TICK`: one register `t`. -/
  | tick (t : Data)
  /-- A device known only by its contract (45_fabric_step.md R243). -/
  | outside (dev : OutsideDevice)
deriving DecidableEq, Repr

/-- A registration (R24): base address, length, and the device. Its capability handle is its position in the registry (R110).
A step changes `dev` alone. -/
structure Registration where
  base : Addr
  length : Addr
  dev : Device
deriving DecidableEq, Repr

/-! ## The wires (30_encoding.md R80) -/

/-- The wires the master drives, sampled once per evaluation. -/
structure MasterWires where
  awvalid : Bool
  awaddr : Addr
  awsize : SizeField
  awburst : BurstField
  awcache : BitVec 4
  awprot : BitVec 3
  awid : TxnId
  awlen : LenField
  awlock : Bool
  awqos : BitVec 4
  awregion : BitVec 4
  wvalid : Bool
  wlast : Bool
  wdata : Data
  wstrb : Strobe
  bready : Bool
  arvalid : Bool
  araddr : Addr
  arsize : SizeField
  arburst : BurstField
  arcache : BitVec 4
  arprot : BitVec 3
  arid : TxnId
  arlen : LenField
  arlock : Bool
  arqos : BitVec 4
  arregion : BitVec 4
  rready : Bool
deriving DecidableEq, Repr

/-- The wires the fabric drives, anew at every evaluation. -/
structure FabricWires where
  awready : Bool
  wready : Bool
  bvalid : Bool
  bresp : RespField
  bid : TxnId
  arready : Bool
  rvalid : Bool
  rlast : Bool
  rdata : Data
  rresp : RespField
  rid : TxnId
deriving DecidableEq, Repr

/-- A master that asserts nothing: every input 0 (30_encoding.md R95: "an input not listed is 0"). -/
def MasterWires.quiet : MasterWires where
  awvalid := false
  awaddr := 0
  awsize := 0
  awburst := 0
  awcache := 0
  awprot := 0
  awid := 0
  awlen := 0
  awlock := false
  awqos := 0
  awregion := 0
  wvalid := false
  wlast := false
  wdata := 0
  wstrb := 0
  bready := false
  arvalid := false
  araddr := 0
  arsize := 0
  arburst := 0
  arcache := 0
  arprot := 0
  arid := 0
  arlen := 0
  arlock := false
  arqos := 0
  arregion := 0
  rready := false

/-- Every output 0: what `State.out` holds before the first evaluation (DESIGN CHOICE, notes/assumptions/11.md). -/
def FabricWires.low : FabricWires where
  awready := false
  wready := false
  bvalid := false
  bresp := 0
  bid := 0
  arready := false
  rvalid := false
  rlast := false
  rdata := 0
  rresp := 0
  rid := 0

/-! ## The state -/

/-- Everything the machine holds between two evaluations. -/
structure State where
  /-- The parameters of 00_scope.md R7; no step writes them. -/
  params : Params
  /-- The registry in registration order, with the devices' states; no step writes a base or a length. -/
  registry : List Registration
  /-- The read-transaction register `st.R`. -/
  R : ReadReg
  /-- The write-transaction register `st.W`. -/
  W : WriteReg
  /-- The exclusive monitor `st.M`. -/
  M : Monitor
  /-- The model's own: the wires the next evaluation samples (notes/assumptions/3.md). -/
  inp : MasterWires
  /-- The model's own: the wires of the evaluations after that; past the end every input is 0. -/
  script : List MasterWires
  /-- The model's own: the wires the last evaluation drove; no evaluation reads them (R27). -/
  out : FabricWires
  /-- The model's own: the counter that indexes the free values (notes/assumptions/12.md). -/
  draws : Nat
deriving DecidableEq, Repr

/-- Why the machine would stop with a fault. There is no such reason: "all faults are encoded as protocol responses"
(60_exceptions.md R260), every input at every state has a next state (45_fabric_step.md R251). The type is empty, and that is
safe (notes/assumptions/20.md). -/
inductive Fault where
deriving DecidableEq, Repr

/-- Why an instruction would be refused. -/
inductive Refusal where
  /-- Raised by an arm of `exec` whose instruction has no meaning yet; safe. No arm raises it. -/
  | notModelled (mnemonic : String)
deriving DecidableEq, Repr

/-! ## Reset -/

/-- The read-transaction register of R32. Its fields other than `state` and `cache` are unspecified there; 0 is a
DESIGN CHOICE, unsafe (notes/assumptions/9.md). -/
def ReadReg.reset : ReadReg where
  state := .idle
  beat := 0
  cache := none
  addr := 0
  size := 0
  burst := 0
  id := 0
  len := 0
  lock := false

/-- The write-transaction register of R32. Its fields other than `state` are unspecified there; 0 and OKAY are a
DESIGN CHOICE, unsafe (notes/assumptions/9.md). -/
def WriteReg.reset : WriteReg where
  state := .idle
  beat := 0
  addr := 0
  size := 0
  burst := 0
  id := 0
  len := 0
  lock := false
  pending := .okay

/-- The monitor of R32 with `capacity` slots: no slot valid, cursor 0. The address and size of an invalid slot are
unspecified there; 0 is a DESIGN CHOICE, unsafe (notes/assumptions/9.md). -/
def Monitor.reset (capacity : Nat) : Monitor where
  slots := List.replicate capacity { valid := false, addr := 0, size := 0 }
  cursor := 0

/-- The fabric as it is constructed (R280, R281, R32) with these parameters and this registry of devices, before its first
evaluation, the master asserting nothing. -/
def State.construct (params : Params) (registry : List Registration) : State where
  params := params
  registry := registry
  R := .reset
  W := .reset
  M := .reset params.capacity
  inp := .quiet
  script := []
  out := .low
  draws := 0

/-- The state after reset, at the default parameters of R7. The spec gives no registry (REGISTRY is an argument, R7); the
empty one is a DESIGN CHOICE, unsafe for a claim about runs from this state (notes/assumptions/10.md). -/
def State.reset : State := State.construct Params.default []

end Sys2Proof.Machine
end

