-- ==== Sys2Proof/Machine/Exclusive.lean ====
section
/-!
DEFINITION. The exclusive-access reservation monitor (spec/42_exclusive_monitor.md R150 to R154).
-/

namespace Sys2Proof.Machine

/-- `Intersects(a1, s1, a2, s2)` (R150): the byte ranges meet, on unbounded numbers. -/
def intersects (a1 : Addr) (s1 : SizeField) (a2 : Addr) (s2 : SizeField) : Bool :=
  decide (a1.toNat < a2.toNat + 2 ^ s2.toNat) && decide (a2.toNat < a1.toNat + 2 ^ s1.toNat)

/-- A live slot whose range meets the range `[a, a + 2^s)`. -/
def Slot.conflictsWith (t : Slot) (a : Addr) (s : SizeField) : Bool := t.valid && intersects a s t.addr t.size

/-- `conflicts(a, s)` (R152). -/
def Monitor.conflicts (m : Monitor) (a : Addr) (s : SizeField) : Bool := m.slots.any (fun t => t.conflictsWith a s)

/-- `hit(a)` (R153): a live reservation starts at exactly this address; sizes are not compared. -/
def Monitor.hit (m : Monitor) (a : Addr) : Bool := m.slots.any (fun t => t.valid && t.addr == a)

/-- `reserve(a, s)` (R151): into the first invalid slot; if every slot is live, over the slot at the cursor, which advances. -/
def Monitor.reserve (m : Monitor) (a : Addr) (s : SizeField) : Monitor :=
  match m.slots.findIdx? (fun t => !t.valid) with
  | some i => { m with slots := m.slots.set i { valid := true, addr := a, size := s } }
  | none =>
    { slots := m.slots.set m.cursor { valid := true, addr := a, size := s }
      cursor := (m.cursor + 1) % m.slots.length }

/-- `invalidate_conflicting(a, s)` (R154): clears every live slot whose range meets the given one. -/
def Monitor.invalidateConflicting (m : Monitor) (a : Addr) (s : SizeField) : Monitor :=
  { m with slots := m.slots.map (fun t => if t.conflictsWith a s then { t with valid := false } else t) }

end Sys2Proof.Machine
end

