-- ==== Sys2Proof/Machine/Flags.lean ====
section
/-!
DEFINITION. The fabric has no condition flags; its flag-like results (spec/10_state.md R28) and the bits a beat carries:
the response codes and burst-last.
-/

namespace Sys2Proof.Machine

/-- The response of a valid read beat (43_read_engine.md R185): EXCLUSIVE-OK when locked, whatever the monitor holds. -/
def readBeatResp (lock : Bool) : Resp := if lock then .exokay else .okay

/-- Burst-last of a valid read beat (R185). -/
def readBeatLast (beat : Nat) (len : LenField) : Bool := decide (beat = len.toNat)

/-- Whether a valid write data beat reaches its device (44_write_engine.md R214). -/
def writeReaches (lock hit : Bool) : Bool := !lock || hit

/-- The pending response after a valid write data beat (R214). -/
def writeBeatResp (lock hit : Bool) : Resp := if lock && hit then .exokay else .okay

end Sys2Proof.Machine
end

