-- ==== Sys2Proof/Machine/Operands.lean ====
section
/-!
DEFINITION. The operands of a beat, assembled from latched fields (spec/30_encoding.md R94): its address
(41_burst_address.md R130 to R138), its page (R136) and its device and offset (40_address_decoder.md R111 to R118).
-/

namespace Sys2Proof.Machine

/-! ## The burst address generator -/

/-- FIXED (R131), and the fallback of the invalid mode (R134). -/
def fixedAddr (base : Addr) : Addr := base

/-- Bytes of one beat (R87). -/
def bytesPerBeat (size : SizeField) : Nat := 2 ^ size.toNat

/-- INCREMENTING (R132, R135). -/
def incrAddr (base : Addr) (size : SizeField) (beat : Nat) : Addr :=
  BitVec.ofNat 64 (base.toNat + beat * bytesPerBeat size)

/-- Bytes of a WRAP window (R133). -/
def windowBytes (size : SizeField) (len : LenField) : Nat := (len.toNat + 1) * bytesPerBeat size

/-- The WRAP window's base: `base & ~(windowBytes - 1)` (R133). -/
def alignedBase (base : Addr) (size : SizeField) (len : LenField) : Addr :=
  base &&& ~~~(BitVec.ofNat 64 (windowBytes size len - 1))

/-- WRAP as the source gives it (R133). -/
def wrapAddr (base : Addr) (size : SizeField) (len : LenField) (beat : Nat) : Addr :=
  BitVec.ofNat 64 ((alignedBase base size len).toNat + (beat * bytesPerBeat size) % windowBytes size len)

/-- The alternative WRAP formula (R138), reduced to an address as R135 says (DEDUCED, notes/assumptions/25.md). -/
def wrapAddrAxi (base : Addr) (size : SizeField) (len : LenField) (beat : Nat) : Addr :=
  BitVec.ofNat 64 ((alignedBase base size len).toNat +
    ((base.toNat - (alignedBase base size len).toNat) + beat * bytesPerBeat size) % windowBytes size len)

/-- `BurstAddr(base, size, burst, len, beat)` (R130). -/
def burstAddr (formula : WrapFormula) (base : Addr) (size : SizeField) (burst : BurstField) (len : LenField)
    (beat : Nat) : Addr :=
  match Config.burstMode burst with
  | some .fixed => fixedAddr base
  | some .incr => incrAddr base size beat
  | some .wrap =>
    match formula with
    | .literal => wrapAddr base size len beat
    | .axi => wrapAddrAxi base size len beat
  | none => fixedAddr base

/-! ## The page rule -/

/-- `SamePage(a, start)` (R136): equal above bit `PAGE_SHIFT`. -/
def samePage (a start : Addr) : Bool := a >>> Config.pageShift == start >>> Config.pageShift

/-! ## The address decoder -/

/-- `Matches(g, a)` (R111). -/
def Registration.covers (g : Registration) (a : Addr) : Bool := decide ((a - g.base).toNat < g.length.toNat)

/-- The scan of R112 over the registrations from position `k` on. -/
def busDecodeFrom (a : Addr) : Nat → List Registration → Option (Nat × Addr)
  | _, [] => none
  | k, g :: rest => if g.covers a then some (k, a - g.base) else busDecodeFrom a (k + 1) rest

/-- `Decode(a)` (R112): the position of the first registration that matches and the offset in it, none for NoMatch. -/
def busDecode (reg : List Registration) (a : Addr) : Option (Nat × Addr) := busDecodeFrom a 0 reg

/-- The device and offset of a valid beat at address `a`, none for an invalid beat: `BeatOK(a, start)` (R118). -/
def beatTarget (reg : List Registration) (a start : Addr) : Option (Nat × Addr) :=
  if samePage a start then busDecode reg a else none

end Sys2Proof.Machine
end

