-- ==== Sys2Proof/Machine/Ops.lean ====
section
/-!
DEFINITION. The named operations over byte storage and devices (spec/45_fabric_step.md R243 to R248, 95_test_vectors.md
section 1), and the fabric's only error outcome, the decode error (60_exceptions.md R260 to R268).
-/

namespace Sys2Proof

/-! ## Byte storage -/

/-- What an offset that no cell lists reads as: the initial contents of the `TRAM` fixture, `b[k] = k mod 256`
(95_test_vectors.md section 1; notes/assumptions/17.md). -/
def Memory.unlisted (x : Nat) : Byte := BitVec.ofNat 8 x

/-- The byte some cells give an offset. -/
def Memory.lookup (x : Nat) : List Host.Cell → Byte
  | [] => Memory.unlisted x
  | (y, b) :: rest => if y = x then b else Memory.lookup x rest

/-- The cells after a byte is stored, in canonical form: a byte equal to what an unlisted offset reads as is not listed. -/
def Memory.store (x : Nat) (b : Byte) : List Host.Cell → List Host.Cell
  | [] => if b = Memory.unlisted x then [] else [(x, b)]
  | (y, c) :: rest =>
    if x < y then (if b = Memory.unlisted x then (y, c) :: rest else (x, b) :: (y, c) :: rest)
    else if x = y then (if b = Memory.unlisted x then rest else (x, b) :: rest)
    else (y, c) :: Memory.store x b rest

/-- The byte at an offset. -/
def Memory.read (m : Memory) (x : Nat) : Byte := Memory.lookup x m.cells

/-- The storage after one byte is written. -/
def Memory.write (m : Memory) (x : Nat) (b : Byte) : Memory := ⟨Memory.store x b m.cells⟩

/-- The storage after some bytes are written, the first of the list first. -/
def Memory.writeAll (m : Memory) (cells : List Host.Cell) : Memory := cells.foldl (fun m c => m.write c.1 c.2) m

/-- The canonical form: offsets strictly rising, and no cell equal to what an unlisted offset reads as. -/
abbrev Memory.wf (m : Memory) : Prop :=
  m.cells.Pairwise (fun c d => c.1 < d.1) ∧ ∀ c ∈ m.cells, c.2 ≠ Memory.unlisted c.1

namespace Machine

/-! ## The device contract -/

/-- A device's state after an operation, and the interrupt levels the device sets on other devices (R247). -/
structure DeviceAfter where
  dev : Device
  irqs : List IrqCall
deriving DecidableEq, Repr

/-- `byte(x)` of `TRAM`: 0 past its end. -/
def tramByte (length : Nat) (mem : Memory) (x : Nat) : Byte := if x < length then mem.read x else 0

/-- The sum over `i < n` of `byte(off + i) << 8i`. -/
def tramSum (length : Nat) (mem : Memory) (off : Nat) : Nat → Nat
  | 0 => 0
  | n + 1 => tramSum length mem off n + (tramByte length mem (off + n)).toNat * 2 ^ (8 * n)

/-- The storage of `TRAM` after the lanes below `n` that the mask selects are written, past-end bytes dropped. -/
def tramStore (length : Nat) (mem : Memory) (off : Nat) (v : Data) (mask : Strobe) : Nat → Memory
  | 0 => mem
  | n + 1 =>
    let m := tramStore length mem off v mask n
    if mask.getLsbD n = true ∧ off + n < length then m.write (off + n) (v.extractLsb' (8 * n) 8) else m

/-- The lanes of a write the mask selects and the bytes an outside device holds there afterwards (R245). -/
def outsideStores (o : OutsideDevice) (off : Addr) (v : Data) (size : SizeField) (mask : Strobe) : List Host.Cell :=
  ((List.range 8).filter (fun lane => mask.getLsbD lane)).map
    (fun lane => (Config.outsideLane o off size lane, Config.outsideLaneByte o off v size mask lane))

/-- An outside device after its storage took some bytes and its hidden state changed. -/
def outsideAfter (o : OutsideDevice) (stores : List Host.Cell) (hidden : List Nat) : Device :=
  .outside { o with mem := o.mem.writeAll stores, hidden := hidden }

/-- `DevRead(d, off, s) -> (v, d')` (R244). -/
def Device.read (d : Device) (off : Addr) (size : SizeField) : Data × DeviceAfter :=
  match d with
  | .tram length mem => (BitVec.ofNat 64 (tramSum length mem off.toNat (2 ^ size.toNat)), ⟨.tram length mem, []⟩)
  | .cnt c => (c, ⟨.cnt (c + 1), []⟩)
  | .tick t => (t, ⟨.tick t, []⟩)
  | .outside o =>
    let e := Config.outsideRead o off size
    (e.value, ⟨outsideAfter o e.stores e.hidden, e.irqs⟩)

/-- `DevWrite(d, off, v, s, mask) -> d'` (R245). -/
def Device.write (d : Device) (off : Addr) (v : Data) (size : SizeField) (mask : Strobe) : DeviceAfter :=
  match d with
  | .tram length mem => ⟨.tram length (tramStore length mem off.toNat v mask (min (2 ^ size.toNat) 8)), []⟩
  | .cnt _ => ⟨.cnt v, []⟩
  | .tick t => ⟨.tick t, []⟩
  | .outside o =>
    let e := Config.outsideWrite o off v size mask
    ⟨outsideAfter o (outsideStores o off v size mask) e.hidden, e.irqs⟩

/-- `Step(d) -> d'` (R246); a device without a step is unchanged. -/
def Device.step (d : Device) (draw : Nat) : DeviceAfter :=
  match d with
  | .tram length mem => ⟨.tram length mem, []⟩
  | .cnt c => ⟨.cnt c, []⟩
  | .tick t => ⟨.tick (t + 1), []⟩
  | .outside o =>
    if o.hasStep then
      let e := Config.outsideStep o draw
      ⟨outsideAfter o e.stores e.hidden, e.irqs⟩
    else ⟨.outside o, []⟩

/-- `set_interrupt_level(source, level)` (R247); a device that is no interrupt controller has no such operation. That the
arguments are natural numbers is the model's choice (notes/assumptions/27.md). -/
def Device.setInterruptLevel (d : Device) (source : Nat) (level : Nat) : Device :=
  match d with
  | .tram length mem => .tram length mem
  | .cnt c => .cnt c
  | .tick t => .tick t
  | .outside o =>
    if o.irqController then
      let e := Config.outsideSetIrq o source level
      outsideAfter o e.stores e.hidden
    else .outside o

/-- The byte at an offset of a device's storage; a device without byte storage has none. -/
def Device.byte (d : Device) (x : Nat) : Option Byte :=
  match d with
  | .tram length mem => if x < length then some (mem.read x) else none
  | .cnt _ => none
  | .tick _ => none
  | .outside o => some (o.mem.read x)

/-- The offsets of a device's storage that a write with this mask may change (R245). -/
def Device.writtenOffsets (d : Device) (off : Addr) (size : SizeField) (mask : Strobe) : List Nat :=
  match d with
  | .tram _ _ => ((List.range (min (2 ^ size.toNat) 8)).filter (fun lane => mask.getLsbD lane)).map (off.toNat + ·)
  | .cnt _ => []
  | .tick _ => []
  | .outside o => ((List.range 8).filter (fun lane => mask.getLsbD lane)).map (Config.outsideLane o off size)

/-! ## Devices in the registry -/

/-- The registry with the device at position `k` replaced. -/
def setDevice (reg : List Registration) (k : Nat) (d : Device) : List Registration :=
  reg.modify k (fun g => { g with dev := d })

/-- The registry after the device at position `caller` made one call of `set_interrupt_level` on another device (R247, R25). -/
def deliverIrq (caller : Nat) (reg : List Registration) (c : IrqCall) : List Registration :=
  if c.target = caller then reg
  else reg.modify c.target (fun g => { g with dev := g.dev.setInterruptLevel c.source c.level })

/-- The registry after an operation of the device at position `k`: its new state, then its interrupt calls in their order. -/
def settleDevice (reg : List Registration) (k : Nat) (a : DeviceAfter) : List Registration :=
  a.irqs.foldl (deliverIrq k) (setDevice reg k a.dev)

/-- A device read at position `k`: the value and the registry after it. -/
def readDevice (reg : List Registration) (k : Nat) (off : Addr) (size : SizeField) : Data × List Registration :=
  match reg[k]? with
  | some g => ((g.dev.read off size).1, settleDevice reg k (g.dev.read off size).2)
  | none => (0, reg)

/-- A device write at position `k`: the registry after it. -/
def writeDevice (reg : List Registration) (k : Nat) (off : Addr) (v : Data) (size : SizeField) (mask : Strobe) :
    List Registration :=
  match reg[k]? with
  | some g => settleDevice reg k (g.dev.write off v size mask)
  | none => reg

/-- The step of the device at position `k` (R246). -/
def stepDevice (draw : Nat) (reg : List Registration) (k : Nat) : List Registration :=
  match reg[k]? with
  | some g => settleDevice reg k (g.dev.step draw)
  | none => reg

/-- The positions of `n` devices in the order their steps take within an edge: those named first, then the others in
registration order; each once (R248). -/
def deviceOrder (n : Nat) (first : List Nat) : List Nat :=
  let named := (first.filter (fun k => k < n)).eraseDups
  named ++ (List.range n).filter (fun k => !named.contains k)

/-- The device steps of one edge (R240, R246). -/
def stepDevices (draw : Nat) (first : List Nat) (reg : List Registration) : List Registration :=
  (deviceOrder reg.length first).foldl (stepDevice draw) reg

/-- The part of the registry that is immutable (R24): the bases and lengths, in order. -/
def registryRanges (reg : List Registration) : List (Addr × Addr) := reg.map (fun g => (g.base, g.length))

/-! ## The read-data wires, and the decode error -/

/-- A read beat on the wires (43_read_engine.md R182): valid, the latched id, and `arready` low. -/
def driveReadBeat (s : State) (data : Data) (resp : Resp) (last : Bool) : State :=
  { s with
    out :=
      { s.out with
        arready := false
        rvalid := true
        rid := s.R.id
        rdata := data
        rresp := resp.code
        rlast := last } }

/-- The wires of the idle read engine (R180): `arready`, no beat, and payload wires of free value (U5). -/
def driveReadIdle (s : State) : State :=
  { s with
    out :=
      { s.out with
        arready := true
        rvalid := false
        rid := s.params.fitId (Config.idleRid s.draws)
        rdata := Config.idleRdata s.draws
        rresp := Config.idleRresp s.draws
        rlast := Config.idleRlast s.draws } }

/-- The wires of the write engine while it offers no response (44_write_engine.md R210, R212): payload of free value (U5). -/
def driveWriteOpen (s : State) (awready wready : Bool) : State :=
  { s with
    out :=
      { s.out with
        awready := awready
        wready := wready
        bvalid := false
        bresp := Config.idleBresp s.draws
        bid := s.params.fitId (Config.idleBid s.draws) } }

/-- The write response on the wires (R217). -/
def driveWriteResponse (s : State) : State :=
  { s with
    out :=
      { s.out with
        awready := false
        wready := false
        bvalid := true
        bresp := s.W.pending.code
        bid := s.W.id } }

/-- The decode error of a read beat (R187, 60_exceptions.md R262): zero data, burst-last, DECERR; no device is called and no
state is written. -/
def readDecodeError (s : State) : State := driveReadBeat s 0 .decerr true

/-- The decode error of a write data beat (R215, 60_exceptions.md R264): DECERR is pending and the data phase is over. -/
def writeDecodeError (s : State) : State :=
  { s with W := { s.W with pending := .decerr, state := .responding } }

end Machine

end Sys2Proof
end

