-- ==== Sys2Proof/Machine/ReadEngine.lean ====
section
/-!
DEFINITION. One evaluation of the read engine for a request (spec/43_read_engine.md R180 to R190), shared by the meanings of
the read request kinds.
-/

namespace Sys2Proof.Machine

/-- Acceptance (R181): the request is latched and its first beat is due at the next evaluation. The request's address and id
are those on the wires; `cache` is not written. -/
def acceptRead (q : Request) (s : State) : State :=
  { driveReadIdle s with
    R :=
      { s.R with
        addr := s.inp.araddr
        size := q.size
        burst := q.burst
        id := s.params.fitId s.inp.arid
        len := q.len
        lock := q.lock
        beat := 0
        state := .sending } }

/-- The address of the beat being presented (R183). -/
def readBeatAddr (q : Request) (s : State) : Addr :=
  burstAddr s.params.wrapFormula s.R.addr q.size q.burst q.len s.R.beat

/-- The device and offset of the beat being presented, none when the beat is invalid (R184). -/
def readBeatTarget (q : Request) (s : State) : Option (Nat × Addr) :=
  beatTarget s.registry (readBeatAddr q s) s.R.addr

/-- A valid beat at offset `off` of device `k` on the wires (R185), its device read done at most once (R186). -/
def presentReadBeat (q : Request) (k : Nat) (off : Addr) (s : State) : State :=
  match s.R.cache with
  | some v => driveReadBeat s v (readBeatResp q.lock) (readBeatLast s.R.beat q.len)
  | none =>
    let r := readDevice s.registry k off q.size
    driveReadBeat { s with registry := r.2, R := { s.R with cache := some r.1 } } r.1 (readBeatResp q.lock)
      (readBeatLast s.R.beat q.len)

/-- The handshake of a beat at address `a` (R189, R190): the cache is cleared, a locked beat reserves (a decode-error beat
only under `RESERVE_ON_DECERR`), and the burst ends or goes on. -/
def acknowledgeReadBeat (q : Request) (a : Addr) (valid : Bool) (s : State) : State :=
  { s with
    M := if q.lock && (valid || s.params.reserveOnDecErr) then s.M.reserve a q.size else s.M
    R :=
      if !valid || decide (s.R.beat = q.len.toNat) then { s.R with cache := none, state := .idle }
      else { s.R with cache := none, beat := s.R.beat + 1 } }

/-- A `SENDING` evaluation (R182 to R190). -/
def sendRead (q : Request) (s : State) : State :=
  let a := readBeatAddr q s
  let target := readBeatTarget q s
  let presented :=
    match target with
    | some (k, off) => presentReadBeat q k off s
    | none => readDecodeError s
  if s.inp.rready then acknowledgeReadBeat q a target.isSome presented else presented

/-- One evaluation of the read engine for request `q`: its acceptance while the engine is `IDLE`, else a beat of it. -/
def evalRead (q : Request) (s : State) : State :=
  match s.R.state with
  | .idle => acceptRead q s
  | .sending => sendRead q s

end Sys2Proof.Machine
end

