-- ==== Sys2Proof/Machine/Read.lean ====
section
/-!
DEFINITION. The meanings of the RD.* request kinds (spec/43_read_engine.md R192 to R195), plain reads. A meaning is one evaluation
of the read engine for the request (notes/assumptions/1.md).
-/

namespace Sys2Proof.Machine

/-- `RD.FIXED` (R192): every beat at the request's address. -/
def execRdFixed (size len : Nat) (s : State) : Host.Outcome State Fault Refusal :=
  .next (evalRead
    { dir := false
      lock := false
      burst := BurstMode.fixed.code
      size := BitVec.ofNat 3 size
      len := BitVec.ofNat 8 len } s)

/-- `RD.INCR` (R193): beat `i` at the request's address plus `i * 2^size`. -/
def execRdIncr (size len : Nat) (s : State) : Host.Outcome State Fault Refusal :=
  .next (evalRead
    { dir := false
      lock := false
      burst := BurstMode.incr.code
      size := BitVec.ofNat 3 size
      len := BitVec.ofNat 8 len } s)

/-- `RD.WRAP` (R194): the beats cycle within the window. -/
def execRdWrap (size len : Nat) (s : State) : Host.Outcome State Fault Refusal :=
  .next (evalRead
    { dir := false
      lock := false
      burst := BurstMode.wrap.code
      size := BitVec.ofNat 3 size
      len := BitVec.ofNat 8 len } s)

/-- `RD.BADBURST` (R195): the invalid burst value, every beat at the request's address (41_burst_address.md R134). -/
def execRdBadburst (size len : Nat) (s : State) : Host.Outcome State Fault Refusal :=
  .next (evalRead
    { dir := false
      lock := false
      burst := badBurstCode
      size := BitVec.ofNat 3 size
      len := BitVec.ofNat 8 len } s)

end Sys2Proof.Machine
end

