-- ==== Sys2Proof/Machine/ReadExclusive.lean ====
section
/-!
DEFINITION. The meanings of the RDX.* request kinds (spec/43_read_engine.md R196 to R199), exclusive reads: EXCLUSIVE-OK on each valid beat, a reservation at each handshake. A meaning is one evaluation
of the read engine for the request (notes/assumptions/1.md).
-/

namespace Sys2Proof.Machine

/-- `RDX.FIXED` (R196): every beat at the request's address. -/
def execRdxFixed (size len : Nat) (s : State) : Host.Outcome State Fault Refusal :=
  .next (evalRead
    { dir := false
      lock := true
      burst := BurstMode.fixed.code
      size := BitVec.ofNat 3 size
      len := BitVec.ofNat 8 len } s)

/-- `RDX.INCR` (R197): beat `i` at the request's address plus `i * 2^size`. -/
def execRdxIncr (size len : Nat) (s : State) : Host.Outcome State Fault Refusal :=
  .next (evalRead
    { dir := false
      lock := true
      burst := BurstMode.incr.code
      size := BitVec.ofNat 3 size
      len := BitVec.ofNat 8 len } s)

/-- `RDX.WRAP` (R198): the beats cycle within the window. -/
def execRdxWrap (size len : Nat) (s : State) : Host.Outcome State Fault Refusal :=
  .next (evalRead
    { dir := false
      lock := true
      burst := BurstMode.wrap.code
      size := BitVec.ofNat 3 size
      len := BitVec.ofNat 8 len } s)

/-- `RDX.BADBURST` (R199): the invalid burst value, every beat at the request's address (41_burst_address.md R134). -/
def execRdxBadburst (size len : Nat) (s : State) : Host.Outcome State Fault Refusal :=
  .next (evalRead
    { dir := false
      lock := true
      burst := badBurstCode
      size := BitVec.ofNat 3 size
      len := BitVec.ofNat 8 len } s)

end Sys2Proof.Machine
end

