-- ==== Sys2Proof/Machine/WriteEngine.lean ====
section
/-!
DEFINITION. One evaluation of the write engine for a request (spec/44_write_engine.md R210 to R218), shared by the meanings
of the write request kinds.
-/

namespace Sys2Proof.Machine

/-- Acceptance (R211): the request is latched; no data beat is taken and `pending` is not written. -/
def acceptWrite (q : Request) (s : State) : State :=
  { driveWriteOpen s true false with
    W :=
      { s.W with
        addr := s.inp.awaddr
        size := q.size
        burst := q.burst
        id := s.params.fitId s.inp.awid
        len := q.len
        lock := q.lock
        beat := 0
        state := .acceptingData } }

/-- The address of the next data beat (R213). -/
def writeBeatAddr (q : Request) (s : State) : Addr :=
  burstAddr s.params.wrapFormula s.W.addr q.size q.burst q.len s.W.beat

/-- The device and offset of the next data beat, none when the beat is invalid (R213). -/
def writeBeatTarget (q : Request) (s : State) : Option (Nat × Addr) :=
  beatTarget s.registry (writeBeatAddr q s) s.W.addr

/-- A valid data beat at address `a`, offset `off` of device `k` (R214): the reservation match is read, the conflicting
reservations are cleared, the device is written unless the exclusive access failed, and the response is set. Then the data
phase ends on `wlast`, whatever `len` is (R216). -/
def takeWriteBeat (q : Request) (a : Addr) (k : Nat) (off : Addr) (s : State) : State :=
  let h := s.M.hit a
  { s with
    M := s.M.invalidateConflicting a q.size
    registry :=
      if writeReaches q.lock h then writeDevice s.registry k off s.inp.wdata q.size s.inp.wstrb else s.registry
    W :=
      if s.inp.wlast then { s.W with pending := writeBeatResp q.lock h, state := .responding }
      else { s.W with pending := writeBeatResp q.lock h, beat := s.W.beat + 1 } }

/-- An `ACCEPTING_DATA` evaluation (R212 to R216). -/
def acceptWriteData (q : Request) (s : State) : State :=
  let driven := driveWriteOpen s false true
  if s.inp.wvalid then
    match writeBeatTarget q s with
    | some (k, off) => takeWriteBeat q (writeBeatAddr q s) k off driven
    | none => writeDecodeError driven
  else driven

/-- A `RESPONDING` evaluation (R217, R218). -/
def respondWrite (s : State) : State :=
  let driven := driveWriteResponse s
  if s.inp.bready then { driven with W := { driven.W with state := .idle } } else driven

/-- One evaluation of the write engine for request `q`: its acceptance while the engine is `IDLE`, else a data beat of it or
its response. -/
def evalWrite (q : Request) (s : State) : State :=
  match s.W.state with
  | .idle => acceptWrite q s
  | .acceptingData => acceptWriteData q s
  | .responding => respondWrite s

end Sys2Proof.Machine
end

