-- ==== Sys2Proof/Machine/Write.lean ====
section
/-!
DEFINITION. The meanings of the WR.* request kinds (spec/44_write_engine.md R219 to R222), plain writes. A meaning is one evaluation
of the write engine for the request (notes/assumptions/1.md).
-/

namespace Sys2Proof.Machine

/-- `WR.FIXED` (R219): every beat at the request's address. -/
def execWrFixed (size len : Nat) (s : State) : Host.Outcome State Fault Refusal :=
  .next (evalWrite
    { dir := true
      lock := false
      burst := BurstMode.fixed.code
      size := BitVec.ofNat 3 size
      len := BitVec.ofNat 8 len } s)

/-- `WR.INCR` (R220): beat `i` at the request's address plus `i * 2^size`. -/
def execWrIncr (size len : Nat) (s : State) : Host.Outcome State Fault Refusal :=
  .next (evalWrite
    { dir := true
      lock := false
      burst := BurstMode.incr.code
      size := BitVec.ofNat 3 size
      len := BitVec.ofNat 8 len } s)

/-- `WR.WRAP` (R221): the beats cycle within the window. -/
def execWrWrap (size len : Nat) (s : State) : Host.Outcome State Fault Refusal :=
  .next (evalWrite
    { dir := true
      lock := false
      burst := BurstMode.wrap.code
      size := BitVec.ofNat 3 size
      len := BitVec.ofNat 8 len } s)

/-- `WR.BADBURST` (R222): the invalid burst value, every beat at the request's address (41_burst_address.md R134). -/
def execWrBadburst (size len : Nat) (s : State) : Host.Outcome State Fault Refusal :=
  .next (evalWrite
    { dir := true
      lock := false
      burst := badBurstCode
      size := BitVec.ofNat 3 size
      len := BitVec.ofNat 8 len } s)

end Sys2Proof.Machine
end

