-- ==== Sys2Proof/Machine/WriteExclusive.lean ====
section
/-!
DEFINITION. The meanings of the WRX.* request kinds (spec/44_write_engine.md R223 to R226), exclusive writes: a device is written only where the reservation hits. A meaning is one evaluation
of the write engine for the request (notes/assumptions/1.md).
-/

namespace Sys2Proof.Machine

/-- `WRX.FIXED` (R223): every beat at the request's address. -/
def execWrxFixed (size len : Nat) (s : State) : Host.Outcome State Fault Refusal :=
  .next (evalWrite
    { dir := true
      lock := true
      burst := BurstMode.fixed.code
      size := BitVec.ofNat 3 size
      len := BitVec.ofNat 8 len } s)

/-- `WRX.INCR` (R224): beat `i` at the request's address plus `i * 2^size`. -/
def execWrxIncr (size len : Nat) (s : State) : Host.Outcome State Fault Refusal :=
  .next (evalWrite
    { dir := true
      lock := true
      burst := BurstMode.incr.code
      size := BitVec.ofNat 3 size
      len := BitVec.ofNat 8 len } s)

/-- `WRX.WRAP` (R225): the beats cycle within the window. -/
def execWrxWrap (size len : Nat) (s : State) : Host.Outcome State Fault Refusal :=
  .next (evalWrite
    { dir := true
      lock := true
      burst := BurstMode.wrap.code
      size := BitVec.ofNat 3 size
      len := BitVec.ofNat 8 len } s)

/-- `WRX.BADBURST` (R226): the invalid burst value, every beat at the request's address (41_burst_address.md R134). -/
def execWrxBadburst (size len : Nat) (s : State) : Host.Outcome State Fault Refusal :=
  .next (evalWrite
    { dir := true
      lock := true
      burst := badBurstCode
      size := BitVec.ofNat 3 size
      len := BitVec.ofNat 8 len } s)

end Sys2Proof.Machine
end

