-- ==== Sys2Proof/Machine/Dispatch.lean ====
section
/-!
DEFINITION. One arm per request kind, each a direct call of its meaning.
-/

namespace Sys2Proof.Machine

-- One evaluation of the engine that serves the request (notes/assumptions/1.md).
def exec (i : Instr) (s : State) : Host.Outcome State Fault Refusal :=
  match i with
  | .rdFixed size len => Sys2Proof.Machine.execRdFixed size len s
  | .rdIncr size len => Sys2Proof.Machine.execRdIncr size len s
  | .rdWrap size len => Sys2Proof.Machine.execRdWrap size len s
  | .rdBadburst size len => Sys2Proof.Machine.execRdBadburst size len s
  | .rdxFixed size len => Sys2Proof.Machine.execRdxFixed size len s
  | .rdxIncr size len => Sys2Proof.Machine.execRdxIncr size len s
  | .rdxWrap size len => Sys2Proof.Machine.execRdxWrap size len s
  | .rdxBadburst size len => Sys2Proof.Machine.execRdxBadburst size len s
  | .wrFixed size len => Sys2Proof.Machine.execWrFixed size len s
  | .wrIncr size len => Sys2Proof.Machine.execWrIncr size len s
  | .wrWrap size len => Sys2Proof.Machine.execWrWrap size len s
  | .wrBadburst size len => Sys2Proof.Machine.execWrBadburst size len s
  | .wrxFixed size len => Sys2Proof.Machine.execWrxFixed size len s
  | .wrxIncr size len => Sys2Proof.Machine.execWrxIncr size len s
  | .wrxWrap size len => Sys2Proof.Machine.execWrxWrap size len s
  | .wrxBadburst size len => Sys2Proof.Machine.execWrxBadburst size len s

end Sys2Proof.Machine
end

