-- ==== Sys2Proof/Machine/Fetch.lean ====
section
/-!
DEFINITION. What stands around the engines' evaluations in one clock edge (spec/45_fabric_step.md R240): which request each
engine serves, the device steps before the bus phase, the master's wires after it, and a request offered on a channel.
-/

namespace Sys2Proof.Machine

/-- The descriptor of the request on the read-address wires (30_encoding.md R89). -/
def arDescriptor (w : MasterWires) : BitVec 16 := packDescriptor false w.arlock w.arburst w.arsize w.arlen

/-- The descriptor of the request on the write-address wires (R89). -/
def awDescriptor (w : MasterWires) : BitVec 16 := packDescriptor true w.awlock w.awburst w.awsize w.awlen

/-- The descriptor of the latched read request. -/
def ReadReg.descriptor (r : ReadReg) : BitVec 16 := packDescriptor false r.lock r.burst r.size r.len

/-- The descriptor of the latched write request. -/
def WriteReg.descriptor (w : WriteReg) : BitVec 16 := packDescriptor true w.lock w.burst w.size w.len

/-- The read request the read engine serves at this edge: the one offered on the wires while it is `IDLE` (43_read_engine.md
R181), the latched one while it is `SENDING`. -/
def fetchRead (s : State) : Option Instr :=
  match s.R.state with
  | .idle => if s.inp.arvalid then some (decodeDescriptor (arDescriptor s.inp)) else none
  | .sending => some (decodeDescriptor s.R.descriptor)

/-- The write request the write engine serves at this edge (44_write_engine.md R211). -/
def fetchWrite (s : State) : Option Instr :=
  match s.W.state with
  | .idle => if s.inp.awvalid then some (decodeDescriptor (awDescriptor s.inp)) else none
  | .acceptingData => some (decodeDescriptor s.W.descriptor)
  | .responding => some (decodeDescriptor s.W.descriptor)

/-- The device steps of the edge (R246). -/
def beginEdge (s : State) : State :=
  { s with registry := stepDevices s.draws s.params.stepFirst s.registry }

/-- The master's evaluation after the edge: the wires of the next edge stand ready (R240; notes/assumptions/3.md). -/
def endEdge (s : State) : State :=
  { s with
    inp := s.script.headD .quiet
    script := s.script.tail
    draws := s.draws + 1 }

/-- The state with the request of a descriptor offered on its channel, the channel's engine idle: the next step accepts it. Its
address and id are those already on the wires (R89; notes/assumptions/2.md). -/
def offerRequest (s : State) (d : BitVec 16) : State :=
  if descDir d then
    { s with
      W := { s.W with state := .idle }
      inp :=
        { s.inp with
          awvalid := true
          awlock := descLock d
          awburst := descBurst d
          awsize := descSize d
          awlen := descLen d } }
  else
    { s with
      R := { s.R with state := .idle, cache := none }
      inp :=
        { s.inp with
          arvalid := true
          arlock := descLock d
          arburst := descBurst d
          arsize := descSize d
          arlen := descLen d } }

end Sys2Proof.Machine
end

