-- ==== Sys2Proof/Machine/Step.lean ====
section
/-!
DEFINITION. One step of the machine is one clock edge (spec/45_fabric_step.md R240, 00_scope.md R10): the device steps, the
read engine's evaluation, the write engine's, and then the master's wires of the next edge.
-/

namespace Sys2Proof.Machine

/-- Goes on with the next state of an outcome, if it has one. -/
def thenDo (o : Host.Outcome State Fault Refusal) (f : State → Host.Outcome State Fault Refusal) :
    Host.Outcome State Fault Refusal :=
  match o with
  | .next s => f s
  | .fault r => .fault r
  | .refused r => .refused r

/-- `ReadEval`: the request served is executed; with none the engine only drives its wires (R180). -/
def runRead (s : State) : Host.Outcome State Fault Refusal :=
  match fetchRead s with
  | some i => exec i s
  | none => .next (driveReadIdle s)

/-- `WriteEval`: the request served is executed; with none the engine only drives its wires (R210). -/
def runWrite (s : State) : Host.Outcome State Fault Refusal :=
  match fetchWrite s with
  | some i => exec i s
  | none => .next (driveWriteOpen s true false)

/-- One clock edge (R240 to R242): device steps, read engine, write engine. -/
def step (s : State) : Host.Outcome State Fault Refusal :=
  thenDo (runRead (beginEdge s)) fun s1 => thenDo (runWrite s1) fun s2 => .next (endEdge s2)

/-- The state with the request whose bits are `w` where the next step takes it from: on the wires of its address channel. -/
def State.withFetchWord (s : State) (nbits w : Nat) : State := offerRequest s (BitVec.ofNat 16 (w % 2 ^ nbits))

end Sys2Proof.Machine
end

