-- ==== Sys2Proof/Safety.lean ====
section
/-!
DEFINITION. What claims about a run speak of: the invariant every evaluation keeps (spec/10_state.md R31), the premises the
spec asks claims to take (93_implementation_defined.md U1), and what an evaluation of one engine leaves alone.
-/

namespace Sys2Proof.Safety

open Sys2Proof.Machine

/-! ## The invariant -/

/-- A device's byte storage has its canonical form. -/
def storageWf (d : Device) : Prop :=
  match d with
  | .tram _ mem => mem.wf
  | .cnt _ => True
  | .tick _ => True
  | .outside o => o.mem.wf

/-- Every registered device's byte storage has its canonical form. -/
def registryWf (reg : List Registration) : Prop := ∀ g ∈ reg, storageWf g.dev

/-- What holds in every reachable state. -/
structure Invariant (s : State) : Prop where
  /-- A cached value only while `SENDING` (R31 (b)). -/
  cacheOnlySending : s.R.cache ≠ none → s.R.state = .sending
  /-- The beat never passes `len` while `SENDING` (R31 (c)). -/
  beatWithinLen : s.R.state = .sending → s.R.beat ≤ s.R.len.toNat
  /-- As many slots as `CAPACITY` (R23). -/
  slotCount : s.M.slots.length = s.params.capacity
  /-- The cursor points at a slot (R31 (e)). -/
  cursorInTable : s.M.cursor < s.params.capacity
  /-- Latched ids fit `ID_WIDTH` (R81). -/
  readIdFits : s.R.id < 2 ^ s.params.idWidth
  /-- Latched ids fit `ID_WIDTH` (R81). -/
  writeIdFits : s.W.id < 2 ^ s.params.idWidth
  /-- The response offered is never SLAVE-ERROR (R86), and EXCLUSIVE-OK only for a locked write (R214). -/
  responseLegal : s.W.state = .responding → s.W.pending ≠ .slverr ∧ (s.W.pending = .exokay → s.W.lock = true)
  /-- Every byte storage has its canonical form. -/
  storage : registryWf s.registry

/-! ## Premises on the registry (U1) -/

/-- No address is matched by both registrations. -/
def disjointRanges (g h : Registration) : Prop := ∀ a, ¬(g.covers a = true ∧ h.covers a = true)

/-- The device exposes `set_interrupt_level` (R247), so other devices may change its state. -/
def isController (d : Device) : Bool :=
  match d with
  | .tram _ _ => false
  | .cnt _ => false
  | .tick _ => false
  | .outside o => o.irqController

/-- The byte at an offset of the device at position `k`. -/
def byteAt (reg : List Registration) (k x : Nat) : Option Byte := (reg[k]?).bind (fun g => g.dev.byte x)

/-! ## What an evaluation of one engine leaves alone -/

/-- The wires of the write channels are the same. -/
def sameWriteWires (a b : FabricWires) : Prop :=
  a.awready = b.awready ∧ a.wready = b.wready ∧ a.bvalid = b.bvalid ∧ a.bresp = b.bresp ∧ a.bid = b.bid

/-- The wires of the read channels are the same. -/
def sameReadWires (a b : FabricWires) : Prop :=
  a.arready = b.arready ∧ a.rvalid = b.rvalid ∧ a.rlast = b.rlast ∧ a.rdata = b.rdata ∧ a.rresp = b.rresp ∧
    a.rid = b.rid

/-- Nothing but `R`, `M`, the registry and the read channels' wires may differ. -/
def readSideOnly (s t : State) : Prop :=
  t.params = s.params ∧ t.W = s.W ∧ t.inp = s.inp ∧ t.script = s.script ∧ t.draws = s.draws ∧ sameWriteWires t.out s.out

/-- Nothing but `W`, `M`, the registry and the write channels' wires may differ. -/
def writeSideOnly (s t : State) : Prop :=
  t.params = s.params ∧ t.R = s.R ∧ t.inp = s.inp ∧ t.script = s.script ∧ t.draws = s.draws ∧ sameReadWires t.out s.out

/-! ## Which wires an evaluation reads (30_encoding.md R91) -/

/-- Two samples of the wires agree on what the read engine in this state reads. -/
def readWiresAgree (r : ReadState) (v w : MasterWires) : Prop :=
  match r with
  | .idle =>
    v.arvalid = w.arvalid ∧
      (v.arvalid = true →
        v.araddr = w.araddr ∧ v.arsize = w.arsize ∧ v.arburst = w.arburst ∧ v.arid = w.arid ∧ v.arlen = w.arlen ∧
          v.arlock = w.arlock)
  | .sending => v.rready = w.rready

/-- Two samples of the wires agree on what the write engine in this state reads. -/
def writeWiresAgree (r : WriteState) (v w : MasterWires) : Prop :=
  match r with
  | .idle =>
    v.awvalid = w.awvalid ∧
      (v.awvalid = true →
        v.awaddr = w.awaddr ∧ v.awsize = w.awsize ∧ v.awburst = w.awburst ∧ v.awid = w.awid ∧ v.awlen = w.awlen ∧
          v.awlock = w.awlock)
  | .acceptingData =>
    v.wvalid = w.wvalid ∧ (v.wvalid = true → v.wdata = w.wdata ∧ v.wstrb = w.wstrb ∧ v.wlast = w.wlast)
  | .responding => v.bready = w.bready

/-! ## Beats of a request -/

/-- The address of beat `beat` of a request whose start address is `start` (41_burst_address.md R130). -/
def beatAddr (p : Params) (q : Request) (start : Addr) (beat : Nat) : Addr :=
  burstAddr p.wrapFormula start q.size q.burst q.len beat

/-- The device and offset of that beat, none when it is a decode error (40_address_decoder.md R118). -/
def beatDevice (s : State) (q : Request) (start : Addr) (beat : Nat) : Option (Nat × Addr) :=
  beatTarget s.registry (beatAddr s.params q start beat) start

/-- The request on the read-address wires. -/
def readOffered (w : MasterWires) : Request := ⟨false, w.arlock, w.arburst, w.arsize, w.arlen⟩

/-- The request on the write-address wires. -/
def writeOffered (w : MasterWires) : Request := ⟨true, w.awlock, w.awburst, w.awsize, w.awlen⟩

/-- The request the read engine has latched. -/
def readLatched (r : ReadReg) : Request := ⟨false, r.lock, r.burst, r.size, r.len⟩

/-- The request the write engine has latched. -/
def writeLatched (w : WriteReg) : Request := ⟨true, w.lock, w.burst, w.size, w.len⟩

/-- `n` evaluations of one request with the wires held. -/
def execTimes (i : Instr) : Nat → State → Host.Outcome State Fault Refusal
  | 0, s => .next s
  | n + 1, s => thenDo (exec i s) (execTimes i n)

end Sys2Proof.Safety
end

