-- ==== Sys2Proof/Certificates/Slice0/Obligations.lean ====
section
/-!
DEFINITION. The statements for the provers. Each cites the rule of spec/ it formalises. "Every read kind" is every constructor
whose request has `dir` clear (rdFixed, rdIncr, rdWrap, rdBadburst, rdxFixed, rdxIncr, rdxWrap, rdxBadburst), "every write
kind" every one whose request has it set (wrFixed, wrIncr, wrWrap, wrBadburst, wrxFixed, wrxIncr, wrxWrap, wrxBadburst);
`RequestFieldsOfEachKind` says which fields each has.
-/

open Sys2Proof Sys2Proof.Machine Sys2Proof.Safety

/-! ## Descriptors (30_encoding.md) -/

/-- Decoding what the encoder writes gives the request back, for every request and every operand its fields hold (R89, R90). -/
def Obligations.DecodeEncodeRoundTrip : Prop :=
  ∀ (i : Instr) (rest : List Byte), i.wellFormed = true → decode (encode i ++ rest) = .ok (i, rest)

/-- Encoding what the decoder reads gives the descriptor back, where bit 11 is the 0 that R89 asks for. -/
def Obligations.EncodeDecodeRoundTrip : Prop :=
  ∀ d : BitVec 16, d.getLsbD 11 = false → encodeDescriptor (decodeDescriptor d) = d

/-- Descriptors that 95_test_vectors.md writes out decode to the requests they stand for there (a sanity statement). The byte
order of a descriptor is the model's choice (notes/assumptions/4.md). -/
def Obligations.DescriptorsOfTheVectorsDecode : Prop :=
  decode [0x00#8, 0x13#8] = .ok (.rdIncr 3 0, []) ∧ decode [0x03#8, 0x03#8] = .ok (.rdFixed 3 3, []) ∧
    decode [0x03#8, 0x22#8] = .ok (.rdWrap 2 3, []) ∧ decode [0x01#8, 0x33#8] = .ok (.rdBadburst 3 1, []) ∧
    decode [0x02#8, 0x53#8] = .ok (.rdxIncr 3 2, []) ∧ decode [0x01#8, 0x62#8] = .ok (.rdxWrap 2 1, []) ∧
    decode [0x00#8, 0x93#8] = .ok (.wrIncr 3 0, []) ∧ decode [0x01#8, 0xC3#8] = .ok (.wrxFixed 3 1, []) ∧
    decode [0x01#8, 0xD3#8] = .ok (.wrxIncr 3 1, []) ∧ decode [0x01#8, 0xE2#8] = .ok (.wrxWrap 2 1, [])

/-- No encoding is refused (R92): two bytes are a request whose operands fit their fields, whatever follows them. -/
def Obligations.EveryDescriptorIsARequest : Prop :=
  ∀ (b0 b1 : Byte) (rest : List Byte), ∃ i, decode (b0 :: b1 :: rest) = .ok (i, rest) ∧ i.wellFormed = true

/-- A request kind is selected by bits 15:12 of its descriptor alone, each of the 16 values one kind, with `size` in bits 10:8 and
`len` in bits 7:0 (R89, R90). -/
def Obligations.KindIsSelectedByBits15To12 : Prop :=
  ∀ (d : BitVec 16) (size len : Nat), size = (d.extractLsb' 8 3).toNat → len = (d.extractLsb' 0 8).toNat →
    (d.extractLsb' 12 4 = 0b0000#4 → decodeDescriptor d = .rdFixed size len) ∧
    (d.extractLsb' 12 4 = 0b0001#4 → decodeDescriptor d = .rdIncr size len) ∧
    (d.extractLsb' 12 4 = 0b0010#4 → decodeDescriptor d = .rdWrap size len) ∧
    (d.extractLsb' 12 4 = 0b0011#4 → decodeDescriptor d = .rdBadburst size len) ∧
    (d.extractLsb' 12 4 = 0b0100#4 → decodeDescriptor d = .rdxFixed size len) ∧
    (d.extractLsb' 12 4 = 0b0101#4 → decodeDescriptor d = .rdxIncr size len) ∧
    (d.extractLsb' 12 4 = 0b0110#4 → decodeDescriptor d = .rdxWrap size len) ∧
    (d.extractLsb' 12 4 = 0b0111#4 → decodeDescriptor d = .rdxBadburst size len) ∧
    (d.extractLsb' 12 4 = 0b1000#4 → decodeDescriptor d = .wrFixed size len) ∧
    (d.extractLsb' 12 4 = 0b1001#4 → decodeDescriptor d = .wrIncr size len) ∧
    (d.extractLsb' 12 4 = 0b1010#4 → decodeDescriptor d = .wrWrap size len) ∧
    (d.extractLsb' 12 4 = 0b1011#4 → decodeDescriptor d = .wrBadburst size len) ∧
    (d.extractLsb' 12 4 = 0b1100#4 → decodeDescriptor d = .wrxFixed size len) ∧
    (d.extractLsb' 12 4 = 0b1101#4 → decodeDescriptor d = .wrxIncr size len) ∧
    (d.extractLsb' 12 4 = 0b1110#4 → decodeDescriptor d = .wrxWrap size len) ∧
    (d.extractLsb' 12 4 = 0b1111#4 → decodeDescriptor d = .wrxBadburst size len)

/-- The direction, lock and burst value of each request kind (R90), its size and len those of the descriptor (R89). -/
def Obligations.RequestFieldsOfEachKind : Prop :=
  ∀ size len : Nat,
    (Instr.rdFixed size len).request = ⟨false, false, 0b00#2, .ofNat 3 size, .ofNat 8 len⟩ ∧
    (Instr.rdIncr size len).request = ⟨false, false, 0b01#2, .ofNat 3 size, .ofNat 8 len⟩ ∧
    (Instr.rdWrap size len).request = ⟨false, false, 0b10#2, .ofNat 3 size, .ofNat 8 len⟩ ∧
    (Instr.rdBadburst size len).request = ⟨false, false, 0b11#2, .ofNat 3 size, .ofNat 8 len⟩ ∧
    (Instr.rdxFixed size len).request = ⟨false, true, 0b00#2, .ofNat 3 size, .ofNat 8 len⟩ ∧
    (Instr.rdxIncr size len).request = ⟨false, true, 0b01#2, .ofNat 3 size, .ofNat 8 len⟩ ∧
    (Instr.rdxWrap size len).request = ⟨false, true, 0b10#2, .ofNat 3 size, .ofNat 8 len⟩ ∧
    (Instr.rdxBadburst size len).request = ⟨false, true, 0b11#2, .ofNat 3 size, .ofNat 8 len⟩ ∧
    (Instr.wrFixed size len).request = ⟨true, false, 0b00#2, .ofNat 3 size, .ofNat 8 len⟩ ∧
    (Instr.wrIncr size len).request = ⟨true, false, 0b01#2, .ofNat 3 size, .ofNat 8 len⟩ ∧
    (Instr.wrWrap size len).request = ⟨true, false, 0b10#2, .ofNat 3 size, .ofNat 8 len⟩ ∧
    (Instr.wrBadburst size len).request = ⟨true, false, 0b11#2, .ofNat 3 size, .ofNat 8 len⟩ ∧
    (Instr.wrxFixed size len).request = ⟨true, true, 0b00#2, .ofNat 3 size, .ofNat 8 len⟩ ∧
    (Instr.wrxIncr size len).request = ⟨true, true, 0b01#2, .ofNat 3 size, .ofNat 8 len⟩ ∧
    (Instr.wrxWrap size len).request = ⟨true, true, 0b10#2, .ofNat 3 size, .ofNat 8 len⟩ ∧
    (Instr.wrxBadburst size len).request = ⟨true, true, 0b11#2, .ofNat 3 size, .ofNat 8 len⟩

/-! ## The address decoder (40_address_decoder.md) -/

/-- A registration matches an address when the 64-bit difference to its base is below its length; length 0 matches none
(R111). -/
def Obligations.MatchIsModularDifferenceBelowLength : Prop :=
  ∀ (g : Registration) (a : Addr),
    (g.covers a = true ↔ (a.toNat + 2 ^ 64 - g.base.toNat) % 2 ^ 64 < g.length.toNat) ∧
      (g.length = 0 → g.covers a = false)

/-- The decoder answers the first registration that matches, with the offset from its base, and none when no one matches
(R112); the offset is below the length (R113). -/
def Obligations.DecodeIsFirstMatch : Prop :=
  ∀ (reg : List Registration) (a : Addr),
    (∀ k off,
      busDecode reg a = some (k, off) ↔
        ∃ g, reg[k]? = some g ∧ g.covers a = true ∧ off = a - g.base ∧
          ∀ j, j < k → ∀ h, reg[j]? = some h → h.covers a = false) ∧
    (busDecode reg a = none ↔ ∀ g ∈ reg, g.covers a = false) ∧
    (∀ k off g, busDecode reg a = some (k, off) → reg[k]? = some g → off.toNat < g.length.toNat)

/-- Of two devices registered with disjoint ranges, an access to an address inside one range never reaches the other
device: the decoder does not name it, and the read or write of the device that is named leaves it as it was. An interrupt
controller may still be changed by the interrupt calls of the device accessed (R247), so the second part is for the others
(R117). -/
def Obligations.DisjointDevicesAreIsolated : Prop :=
  ∀ (reg : List Registration) (j k : Nat) (g h : Registration) (a : Addr),
    j ≠ k → reg[j]? = some g → reg[k]? = some h → disjointRanges g h → g.covers a = true →
      (∀ off, busDecode reg a ≠ some (k, off)) ∧
      (isController h.dev = false → ∀ i off, busDecode reg a = some (i, off) → ∀ size v mask,
        (readDevice reg i off size).2[k]? = some h ∧ (writeDevice reg i off v size mask)[k]? = some h)

/-! ## Burst addresses and the page rule (41_burst_address.md) -/

/-- The beat address of each burst value as a number: the base for FIXED and for the invalid value, the incrementing sum and the
literal WRAP formula reduced modulo 2^64 (R130 to R135). -/
def Obligations.BurstAddressFormulas : Prop :=
  ∀ (f : WrapFormula) (base : Addr) (size : SizeField) (len : LenField) (beat : Nat),
    burstAddr f base size 0b00#2 len beat = base ∧
    burstAddr f base size 0b11#2 len beat = base ∧
    (burstAddr f base size 0b01#2 len beat).toNat = (base.toNat + beat * 2 ^ size.toNat) % 2 ^ 64 ∧
    (∀ perBeat window aligned : Nat, perBeat = 2 ^ size.toNat → window = (len.toNat + 1) * perBeat →
      aligned = (base &&& ~~~(BitVec.ofNat 64 (window - 1))).toNat →
      (burstAddr .literal base size 0b10#2 len beat).toNat = (aligned + (beat * perBeat) % window) % 2 ^ 64)

/-- The alternative WRAP formula, reduced modulo 2^64 as the model does (notes/assumptions/25.md), and where the two formulas
agree: at a base that is a multiple of the window, for windows that are a power of two. R138 says so for every window, but its
own formulas differ at base 12 with a window of 12 bytes (notes/assumptions/26.md). -/
def Obligations.AxiWrapFormulaAndItsAgreement : Prop :=
  ∀ (base : Addr) (size : SizeField) (len : LenField) (beat : Nat),
    (∀ perBeat window aligned : Nat, perBeat = 2 ^ size.toNat → window = (len.toNat + 1) * perBeat →
      aligned = (base &&& ~~~(BitVec.ofNat 64 (window - 1))).toNat →
      (burstAddr .axi base size 0b10#2 len beat).toNat =
        (aligned + ((base.toNat - aligned) + beat * perBeat) % window) % 2 ^ 64) ∧
    (∀ n : Nat, windowBytes size len = 2 ^ n → base.toNat % 2 ^ n = 0 →
      burstAddr .axi base size 0b10#2 len beat = burstAddr .literal base size 0b10#2 len beat)

/-- Where no address passes the top of the address space: an incrementing beat is at `base + i * 2^s`, a fixed beat at
`base`, a wrapping beat inside its window under either formula; and for one beat at an aligned address the three modes agree
(R137). -/
def Obligations.BurstBeatsObeyTheLaws : Prop :=
  ∀ (f : WrapFormula) (base : Addr) (size : SizeField) (len : LenField) (beat : Nat),
    (base.toNat + beat * 2 ^ size.toNat < 2 ^ 64 →
      (burstAddr f base size 0b01#2 len beat).toNat = base.toNat + beat * 2 ^ size.toNat) ∧
    burstAddr f base size 0b00#2 len beat = base ∧
    ((alignedBase base size len).toNat + windowBytes size len ≤ 2 ^ 64 →
      (alignedBase base size len).toNat ≤ (burstAddr f base size 0b10#2 len beat).toNat ∧
      (burstAddr f base size 0b10#2 len beat).toNat < (alignedBase base size len).toNat + windowBytes size len) ∧
    (base.toNat % 2 ^ size.toNat = 0 →
      burstAddr f base size 0b00#2 0 0 = base ∧ burstAddr f base size 0b01#2 0 0 = base ∧
        burstAddr f base size 0b10#2 0 0 = base)

/-- Which beats can fail the page test: never a FIXED or invalid-mode beat, never beat 0 of an incrementing burst, never a
beat of a WRAP window of at most 4096 bytes under either formula; and with `size` at most 3 a window has at most 2048 bytes
(R139). -/
def Obligations.OnlyLongBurstsLeaveThePage : Prop :=
  ∀ (f : WrapFormula) (base : Addr) (size : SizeField) (len : LenField) (beat : Nat),
    samePage (burstAddr f base size 0b00#2 len beat) base = true ∧
    samePage (burstAddr f base size 0b11#2 len beat) base = true ∧
    samePage (burstAddr f base size 0b01#2 len 0) base = true ∧
    (windowBytes size len ≤ 4096 → samePage (burstAddr f base size 0b10#2 len beat) base = true) ∧
    (size.toNat ≤ 3 → windowBytes size len ≤ 2048)

/-- Two addresses are in the same page when they agree above bit 12: the same 4096-byte block (R136). -/
def Obligations.SamePageIsTheSame4KiBBlock : Prop :=
  ∀ a start : Addr, samePage a start = true ↔ a.toNat / 4096 = start.toNat / 4096

/-! ## The exclusive monitor (42_exclusive_monitor.md) -/

/-- Two ranges meet when each starts before the other ends, on unbounded numbers; that is, when they share a byte (R150). -/
def Obligations.RangesMeetOnUnboundedNumbers : Prop :=
  ∀ (a1 : Addr) (s1 : SizeField) (a2 : Addr) (s2 : SizeField),
    (intersects a1 s1 a2 s2 = true ↔
      a1.toNat < a2.toNat + 2 ^ s2.toNat ∧ a2.toNat < a1.toNat + 2 ^ s1.toNat) ∧
    (intersects a1 s1 a2 s2 = true ↔
      ∃ x : Nat, a1.toNat ≤ x ∧ x < a1.toNat + 2 ^ s1.toNat ∧ a2.toNat ≤ x ∧ x < a2.toNat + 2 ^ s2.toNat)

/-- A reservation goes into the first invalid slot, the cursor unchanged; when every slot is live it goes over the slot at the
cursor, which advances modulo the number of slots (R151). -/
def Obligations.ReserveTakesFirstFreeSlotElseCursor : Prop :=
  ∀ (m : Monitor) (a : Addr) (s : SizeField),
    (∀ (i : Nat) (t : Slot), m.slots[i]? = some t → t.valid = false →
      (∀ (j : Nat) (u : Slot), j < i → m.slots[j]? = some u → u.valid = true) →
      m.reserve a s = { slots := m.slots.set i { valid := true, addr := a, size := s }, cursor := m.cursor }) ∧
    ((∀ t ∈ m.slots, t.valid = true) →
      m.reserve a s =
        { slots := m.slots.set m.cursor { valid := true, addr := a, size := s }
          cursor := (m.cursor + 1) % m.slots.length })

/-- `conflicts` and `hit` as the spec gives them: some live slot's range meets the access; some live slot starts at exactly the
address (R152, R153). -/
def Obligations.ConflictsAndHitReadLiveSlots : Prop :=
  ∀ (m : Monitor) (a : Addr) (s : SizeField),
    (m.conflicts a s = true ↔
      ∃ (i : Nat) (t : Slot), m.slots[i]? = some t ∧ t.valid = true ∧ a.toNat < t.addr.toNat + 2 ^ t.size.toNat ∧
        t.addr.toNat < a.toNat + 2 ^ s.toNat) ∧
    (m.hit a = true ↔ ∃ (i : Nat) (t : Slot), m.slots[i]? = some t ∧ t.valid = true ∧ t.addr = a)

/-- Clearing makes invalid exactly the live slots whose range meets the access, and changes nothing else (R154). -/
def Obligations.InvalidateClearsExactlyTheConflicting : Prop :=
  ∀ (m : Monitor) (a : Addr) (s : SizeField),
    (m.invalidateConflicting a s).cursor = m.cursor ∧
    (m.invalidateConflicting a s).slots.length = m.slots.length ∧
    ∀ (i : Nat) (t : Slot), m.slots[i]? = some t → ∃ u, (m.invalidateConflicting a s).slots[i]? = some u ∧ u.addr = t.addr ∧
      u.size = t.size ∧ (u.valid = true ↔ t.valid = true ∧ intersects a s t.addr t.size = false)

/-- The source's capacity test: with two slots, three reservations in a row leave the second and the third live
(95_test_vectors.md S6, V-MON-4). -/
def Obligations.ThirdReservationEvictsTheFirst : Prop :=
  ∀ (a b c : Addr) (sa sb sc : SizeField),
    (((Monitor.reset 2).reserve a sa).reserve b sb).reserve c sc =
      { slots := [{ valid := true, addr := c, size := sc }, { valid := true, addr := b, size := sb }], cursor := 1 }

/-! ## The read engine (43_read_engine.md) -/

/-- Every read kind, offered to the idle engine, is accepted: `arready` is driven, no beat is, the request is latched and beat 0
is due, no device is called and nothing else changes; with no request offered the engine stays `IDLE` and writes nothing (R181).
The premise on `arid` is the width of its wire. -/
def Obligations.ReadRequestIsAccepted : Prop :=
  (∀ (i : Instr) (s : State), i.request.dir = false → s.R.state = .idle → s.inp.arid < 2 ^ s.params.idWidth →
    ∃ t, exec i s = .next t ∧
      t.R =
        { s.R with
          state := .sending
          beat := 0
          addr := s.inp.araddr
          size := i.request.size
          burst := i.request.burst
          id := s.inp.arid
          len := i.request.len
          lock := i.request.lock } ∧
      t.out.arready = true ∧ t.out.rvalid = false ∧ t.M = s.M ∧ t.registry = s.registry ∧ readSideOnly s t) ∧
  (∀ s : State, s.R.state = .idle → s.inp.arvalid = false →
    ∃ t, runRead s = .next t ∧ t.R = s.R ∧ t.out.arready = true ∧ t.out.rvalid = false ∧ t.M = s.M ∧
      t.registry = s.registry ∧ readSideOnly s t)

/-- Every read kind, at a valid beat: the device is read in the first evaluation of the beat, and the cached value is used in the
others, with no device call; the value is on the wires with EXOKAY if the request is locked and OKAY if not, and burst-last at
`beat = len` (R185, R186). The handshake is `ReadHandshakeEndsOrAdvancesTheBurst`. -/
def Obligations.ValidReadBeatIsPresented : Prop :=
  ∀ (i : Instr) (s : State) (k : Nat) (off : Addr) (g : Registration),
    i.request.dir = false → s.R.state = .sending →
    beatDevice s i.request s.R.addr s.R.beat = some (k, off) → s.registry[k]? = some g →
    ∃ t, exec i s = .next t ∧
      t.out.arready = false ∧ t.out.rvalid = true ∧ t.out.rid = s.R.id ∧
      (s.R.cache = none →
        t.out.rdata = (g.dev.read off i.request.size).1 ∧
          t.registry = (readDevice s.registry k off i.request.size).2 ∧
          t.registry[k]? = some { g with dev := (g.dev.read off i.request.size).2.dev }) ∧
      (∀ v, s.R.cache = some v → t.out.rdata = v ∧ t.registry = s.registry) ∧
      (s.inp.rready = false → t.R.cache = some t.out.rdata) ∧
      t.out.rresp = (if i.request.lock then 0b01#2 else 0b00#2) ∧
      t.out.rlast = decide (s.R.beat = i.request.len.toNat) ∧ readSideOnly s t

/-- Every read kind, at a beat that is handshaked: the cache is cleared; after a decode error or the last beat the engine is
`IDLE`, else the next beat is due; a locked beat reserves its address, a decode-error beat only under `RESERVE_ON_DECERR`
(R189, R190). -/
def Obligations.ReadHandshakeEndsOrAdvancesTheBurst : Prop :=
  ∀ (i : Instr) (s : State), i.request.dir = false → s.R.state = .sending → s.inp.rready = true →
    ∃ t, exec i s = .next t ∧
      t.R =
        (if beatDevice s i.request s.R.addr s.R.beat = none ∨ s.R.beat = i.request.len.toNat then
          { s.R with cache := none, state := .idle }
        else { s.R with cache := none, beat := s.R.beat + 1 }) ∧
      t.M =
        (if i.request.lock = true ∧
            (beatDevice s i.request s.R.addr s.R.beat ≠ none ∨ s.params.reserveOnDecErr = true) then
          s.M.reserve (beatAddr s.params i.request s.R.addr s.R.beat) i.request.size
        else s.M) ∧
      readSideOnly s t

/-- Every read kind, at a beat that is not handshaked: nothing changes but the wires, the cache, and the device that the first
evaluation of a valid beat reads (R188). -/
def Obligations.StalledReadBeatKeepsItsPlace : Prop :=
  ∀ (i : Instr) (s : State), i.request.dir = false → s.R.state = .sending → s.inp.rready = false →
    ∃ t, exec i s = .next t ∧ t.M = s.M ∧ readSideOnly s t ∧ t.out.rvalid = true ∧ t.out.arready = false ∧
      (beatDevice s i.request s.R.addr s.R.beat = none → t.R = s.R ∧ t.registry = s.registry) ∧
      (∀ k off v, beatDevice s i.request s.R.addr s.R.beat = some (k, off) → s.R.cache = some v →
        t.R = s.R ∧ t.registry = s.registry ∧ t.out.rdata = v) ∧
      (∀ k off g, beatDevice s i.request s.R.addr s.R.beat = some (k, off) → s.R.cache = none →
        s.registry[k]? = some g →
        t.R = { s.R with cache := some (g.dev.read off i.request.size).1 } ∧
          t.registry = (readDevice s.registry k off i.request.size).2 ∧
          t.out.rdata = (g.dev.read off i.request.size).1)

/-- Every read kind, at an invalid beat: zero data, burst-last and DECERR whatever `beat`, `len` and `lock` are, and no device
is called; at the handshake the burst is over, and a locked beat reserves only under `RESERVE_ON_DECERR` (R187, R189, R190,
R262). -/
def Obligations.ReadDecodeErrorEndsTheBurst : Prop :=
  ∀ (i : Instr) (s : State), i.request.dir = false → s.R.state = .sending →
    beatDevice s i.request s.R.addr s.R.beat = none →
    ∃ t, exec i s = .next t ∧
      t.out.rvalid = true ∧ t.out.rid = s.R.id ∧ t.out.rdata = 0 ∧ t.out.rlast = true ∧ t.out.rresp = 0b11#2 ∧
      t.registry = s.registry ∧
      t.R = (if s.inp.rready then { s.R with cache := none, state := .idle } else s.R) ∧
      t.M =
        (if s.inp.rready && i.request.lock && s.params.reserveOnDecErr then
          s.M.reserve (beatAddr s.params i.request s.R.addr s.R.beat) i.request.size
        else s.M) ∧
      readSideOnly s t

/-- However many evaluations a valid beat is held without a handshake, its device is read once and its value stays on the
wires: the registry after `n + 1` of them is the registry after that one read (R186, R188; 20_memory.md R58). The evaluations follow one another with
no edge between them; `StalledValueStaysOverEdges` says it of whole edges. -/
def Obligations.StalledBeatReadsItsDeviceOnce : Prop :=
  ∀ (n : Nat) (i : Instr) (s : State) (k : Nat) (off : Addr) (g : Registration),
    i.request.dir = false → s.R.state = .sending → s.R.cache = none →
    beatDevice s i.request s.R.addr s.R.beat = some (k, off) → s.registry[k]? = some g → s.inp.rready = false →
    ∃ t, execTimes i (n + 1) s = .next t ∧ t.registry = (readDevice s.registry k off i.request.size).2 ∧
      t.out.rdata = (g.dev.read off i.request.size).1 ∧ t.R = { s.R with cache := some (g.dev.read off i.request.size).1 }

/-! ## The write engine (44_write_engine.md) -/

/-- Every write kind, offered to the idle engine, is accepted: `awready` is driven, the request is latched, data beat 0 is due, no
data is taken and nothing else changes; with no request offered the engine stays `IDLE` (R211). The premise on `awid` is the
width of its wire. -/
def Obligations.WriteRequestIsAccepted : Prop :=
  (∀ (i : Instr) (s : State), i.request.dir = true → s.W.state = .idle → s.inp.awid < 2 ^ s.params.idWidth →
    ∃ t, exec i s = .next t ∧
      t.W =
        { s.W with
          state := .acceptingData
          beat := 0
          addr := s.inp.awaddr
          size := i.request.size
          burst := i.request.burst
          id := s.inp.awid
          len := i.request.len
          lock := i.request.lock } ∧
      t.out.awready = true ∧ t.out.wready = false ∧ t.out.bvalid = false ∧ t.M = s.M ∧ t.registry = s.registry ∧
      writeSideOnly s t) ∧
  (∀ s : State, s.W.state = .idle → s.inp.awvalid = false →
    ∃ t, runWrite s = .next t ∧ t.W = s.W ∧ t.out.awready = true ∧ t.out.wready = false ∧ t.out.bvalid = false ∧
      t.M = s.M ∧ t.registry = s.registry ∧ writeSideOnly s t)

/-- Every write kind, in its data phase: `wready` alone is driven; without a data beat nothing changes, and no device or monitor
operation happens (R212). -/
def Obligations.DataPhaseDrivesReadyAndWaits : Prop :=
  ∀ (i : Instr) (s : State), i.request.dir = true → s.W.state = .acceptingData →
    ∃ t, exec i s = .next t ∧ t.out.awready = false ∧ t.out.wready = true ∧ t.out.bvalid = false ∧
      (s.inp.wvalid = false → t.W = s.W ∧ t.M = s.M ∧ t.registry = s.registry) ∧ writeSideOnly s t

/-- Every write kind, at a valid data beat: the reservation match is read first, then the conflicting reservations are cleared,
the device is written if the write is unlocked or hits, and the response is EXOKAY for a locked hit and OKAY otherwise; the data
phase ends on `wlast`, whatever `len` is (R213, R214, R216). -/
def Obligations.ValidWriteBeatIsTaken : Prop :=
  ∀ (i : Instr) (s : State) (k : Nat) (off : Addr) (g : Registration) (a : Addr) (h : Bool),
    i.request.dir = true → s.W.state = .acceptingData → s.inp.wvalid = true →
    a = beatAddr s.params i.request s.W.addr s.W.beat → h = s.M.hit a →
    beatDevice s i.request s.W.addr s.W.beat = some (k, off) → s.registry[k]? = some g →
    ∃ t, exec i s = .next t ∧
      t.out.awready = false ∧ t.out.wready = true ∧ t.out.bvalid = false ∧
      t.M = s.M.invalidateConflicting a i.request.size ∧
      t.registry =
        (if i.request.lock = false ∨ h = true then
          writeDevice s.registry k off s.inp.wdata i.request.size s.inp.wstrb
        else s.registry) ∧
      (i.request.lock = false ∨ h = true →
        t.registry[k]? = some { g with dev := (g.dev.write off s.inp.wdata i.request.size s.inp.wstrb).dev }) ∧
      t.W =
        (if s.inp.wlast then
          { s.W with pending := if i.request.lock && h then .exokay else .okay, state := .responding }
        else { s.W with pending := if i.request.lock && h then .exokay else .okay, beat := s.W.beat + 1 }) ∧
      writeSideOnly s t

/-- Every write kind, at an invalid data beat: DECERR is pending and the data phase is over, whatever `wlast` and `lock` are; no
device is written and the monitor is neither asked nor changed (R215). -/
def Obligations.WriteDecodeErrorAbortsTheBurst : Prop :=
  ∀ (i : Instr) (s : State), i.request.dir = true → s.W.state = .acceptingData → s.inp.wvalid = true →
    beatDevice s i.request s.W.addr s.W.beat = none →
    ∃ t, exec i s = .next t ∧ t.W = { s.W with pending := .decerr, state := .responding } ∧ t.M = s.M ∧
      t.registry = s.registry ∧ t.out.wready = true ∧ t.out.bvalid = false ∧ writeSideOnly s t

/-- Every write kind, while it responds: the pending response and the latched id are on the wires, and the engine is `IDLE`
after the handshake and unchanged without it (R217, R218). -/
def Obligations.WriteResponseIsOffered : Prop :=
  ∀ (i : Instr) (s : State), i.request.dir = true → s.W.state = .responding →
    ∃ t, exec i s = .next t ∧
      t.out.bvalid = true ∧ t.out.bresp = s.W.pending.code ∧ t.out.bid = s.W.id ∧ t.out.awready = false ∧
      t.out.wready = false ∧ t.W = (if s.inp.bready then { s.W with state := .idle } else s.W) ∧ t.M = s.M ∧
      t.registry = s.registry ∧ writeSideOnly s t

/-! ## Bytes of devices (45_fabric_step.md R245, 95_test_vectors.md section 1) -/

/-- The frame of a data beat: of every write kind, the only bytes of any device that may differ are those of the beat's own
device at the offsets its mask selects (computed by `Device.writtenOffsets` from the beat's offset, size and mask), and, at
positions other than the beat's, those of interrupt controllers, which other devices call (R245, R247). -/
def Obligations.WriteChangesOnlyTheBytesItSelects : Prop :=
  ∀ (i : Instr) (s t : State) (k : Nat) (off : Addr) (g : Registration),
    i.request.dir = true → s.W.state = .acceptingData → s.inp.wvalid = true →
    beatDevice s i.request s.W.addr s.W.beat = some (k, off) → s.registry[k]? = some g → exec i s = .next t →
    ∀ (j x : Nat) (h : Registration), s.registry[j]? = some h → (j ≠ k → isController h.dev = false) →
      (j = k → x ∉ g.dev.writtenOffsets off i.request.size s.inp.wstrb) →
      byteAt t.registry j x = byteAt s.registry j x

/-- The frame of a read: an evaluation of any read kind changes no byte of a `TRAM`, and no `CNT` or `TICK` has bytes; so no
byte of a device that is not an outside device changes (R244). -/
def Obligations.ReadsChangeNoByteOfAFixture : Prop :=
  ∀ (i : Instr) (s t : State), i.request.dir = false → exec i s = .next t →
    ∀ (j x : Nat) (h : Registration), s.registry[j]? = some h → (∀ o, h.dev ≠ .outside o) →
      byteAt t.registry j x = byteAt s.registry j x

/-- A `TRAM` write puts byte lane `i` of the data at offset `off + i`, for the lanes of the access that the mask selects and
that lie inside the RAM; it changes no other byte (95_test_vectors.md section 1). -/
def Obligations.RamWriteStoresTheSelectedLanes : Prop :=
  ∀ (length : Nat) (mem : Memory) (off : Addr) (v : Data) (size : SizeField) (mask : Strobe), mem.wf →
    (∀ lane, lane < 2 ^ size.toNat → lane < 8 → mask.getLsbD lane = true → off.toNat + lane < length →
      ((Device.tram length mem).write off v size mask).dev.byte (off.toNat + lane) =
        some (v.extractLsb' (8 * lane) 8)) ∧
    (∀ x, (∀ lane, lane < 2 ^ size.toNat → lane < 8 → mask.getLsbD lane = true → x ≠ off.toNat + lane) →
      ((Device.tram length mem).write off v size mask).dev.byte x = (Device.tram length mem).byte x)

/-- A `TRAM` read returns its bytes from the offset on, the lowest in lane 0, 0 past its end and 0 in lanes beyond the access,
and changes nothing (95_test_vectors.md section 1). -/
def Obligations.RamReadIsLittleEndian : Prop :=
  ∀ (length : Nat) (mem : Memory) (off : Addr) (size : SizeField),
    ((Device.tram length mem).read off size).2 = ⟨.tram length mem, []⟩ ∧
    ∀ lane, lane < 8 →
      ((Device.tram length mem).read off size).1.extractLsb' (8 * lane) 8 =
        if lane < 2 ^ size.toNat ∧ off.toNat + lane < length then mem.read (off.toNat + lane) else 0

/-- The counter and the tick register of the vectors: a counter read returns the count and adds one, a write replaces it; a tick
register's step adds one, its read changes nothing and its write does nothing (95_test_vectors.md section 1). -/
def Obligations.CounterAndTickFixtures : Prop :=
  ∀ (c : Data) (off : Addr) (size : SizeField) (v : Data) (mask : Strobe) (draw : Nat),
    (Device.cnt c).read off size = (c, ⟨.cnt (c + 1), []⟩) ∧ (Device.cnt c).write off v size mask = ⟨.cnt v, []⟩ ∧
    (Device.cnt c).step draw = ⟨.cnt c, []⟩ ∧ (Device.tick c).step draw = ⟨.tick (c + 1), []⟩ ∧
    (Device.tick c).read off size = (c, ⟨.tick c, []⟩) ∧ (Device.tick c).write off v size mask = ⟨.tick c, []⟩

/-- `set_interrupt_level` changes the controller it is called on and no other device; a device's call on itself, or on a device
that is no interrupt controller, changes nothing (R247, R25; the model's reading, notes/assumptions/15.md; the numbers the call
carries, 27.md). -/
def Obligations.InterruptCallsReachOnlyTheirController : Prop :=
  ∀ (caller : Nat) (reg : List Registration) (c : IrqCall) (j : Nat) (g : Registration), reg[j]? = some g →
    (deliverIrq caller reg c)[j]? =
      some
        (if c.target = j ∧ j ≠ caller ∧ isController g.dev = true then
          { g with dev := g.dev.setInterruptLevel c.source c.level }
        else g)

/-! ## Exclusive pairs (42_exclusive_monitor.md, 44_write_engine.md) -/

/-- A locked read beat that is handshaked, followed by a locked write beat at the same address, in the same edge or later
with nothing between: the reservation is live for the write, so the write reaches the device and EXOKAY is pending, and the
reservation is consumed (R160, R214, R242). -/
def Obligations.LoadReservedThenStoreConditionalSucceeds : Prop :=
  ∀ (r w : Instr) (s : State) (a : Addr) (j k : Nat) (o off : Addr),
    r.request.dir = false → r.request.lock = true → w.request.dir = true → w.request.lock = true →
    s.R.state = .sending → s.W.state = .acceptingData → s.inp.rready = true → s.inp.wvalid = true →
    s.M.cursor < s.M.slots.length →
    beatAddr s.params r.request s.R.addr s.R.beat = a → beatAddr s.params w.request s.W.addr s.W.beat = a →
    beatDevice s r.request s.R.addr s.R.beat = some (j, o) →
    beatDevice s w.request s.W.addr s.W.beat = some (k, off) →
    ∃ t u, exec r s = .next t ∧ exec w t = .next u ∧ t.M.hit a = true ∧ u.W.pending = .exokay ∧
      u.registry = writeDevice t.registry k off s.inp.wdata w.request.size s.inp.wstrb ∧ u.M.hit a = false

/-- An exclusive write only gets EXCLUSIVE-OK if a reservation of its exact beat address is live at the moment of the write: at
an edge that takes a data beat and leaves EXOKAY pending, the beat is valid, the write is locked, and its beat address is that
of a slot live after the edge's device steps and read evaluation, which is when the write is evaluated. That slot was live
before the edge, or the locked read beat handshaked in this very edge is at the same address. An edge that takes no data beat
does not change the pending response (R159). -/
def Obligations.ExclusiveSuccessNeedsALiveReservation : Prop :=
  ∀ (s t : State) (a : Addr), step s = .next t → a = beatAddr s.params (writeLatched s.W) s.W.addr s.W.beat →
    (s.W.state = .acceptingData → s.inp.wvalid = true → t.W.pending = .exokay →
      s.W.lock = true ∧ (beatDevice s (writeLatched s.W) s.W.addr s.W.beat).isSome = true ∧
        (∃ r, runRead (beginEdge s) = .next r ∧ r.M.hit a = true) ∧
        (s.M.hit a = true ∨
          (s.R.state = .sending ∧ s.inp.rready = true ∧ s.R.lock = true ∧
            beatAddr s.params (readLatched s.R) s.R.addr s.R.beat = a))) ∧
    (s.W.state ≠ .acceptingData ∨ s.inp.wvalid = false → t.W.pending = s.W.pending)

/-- After a valid data beat of any write kind, locked or not, successful or not, no live reservation meets its bytes (R154,
R157). -/
def Obligations.ValidWriteBeatClearsWhatItMeets : Prop :=
  ∀ (i : Instr) (s : State) (k : Nat) (off : Addr),
    i.request.dir = true → s.W.state = .acceptingData → s.inp.wvalid = true →
    beatDevice s i.request s.W.addr s.W.beat = some (k, off) →
    ∃ t, exec i s = .next t ∧
      t.M.conflicts (beatAddr s.params i.request s.W.addr s.W.beat) i.request.size = false ∧
      t.M.hit (beatAddr s.params i.request s.W.addr s.W.beat) = false

/-- What breaks a reservation, exhaustively: if a live slot is not there after an edge, then at that edge a valid write data
beat's range met it, or a locked read beat was handshaked while every slot was live and the cursor pointed at it (R157). -/
def Obligations.OnlyWritesAndEvictionBreakReservations : Prop :=
  ∀ (s t : State) (n : Nat) (r : Slot), step s = .next t → s.M.slots[n]? = some r → r.valid = true →
    t.M.slots[n]? ≠ some r →
    (s.W.state = .acceptingData ∧ s.inp.wvalid = true ∧
      (beatDevice s (writeLatched s.W) s.W.addr s.W.beat).isSome = true ∧
      intersects (beatAddr s.params (writeLatched s.W) s.W.addr s.W.beat) s.W.size r.addr r.size = true) ∨
    (s.R.state = .sending ∧ s.inp.rready = true ∧ s.R.lock = true ∧ s.M.cursor = n ∧
      (∀ u ∈ s.M.slots, u.valid = true) ∧
      ((beatDevice s (readLatched s.R) s.R.addr s.R.beat).isSome = true ∨ s.params.reserveOnDecErr = true))

/-- A reservation that an edge newly leaves live was installed by the handshake of a locked read beat at that edge, for that
beat's address and size (10_state.md R31 (d), R151, R155). -/
def Obligations.NewReservationsComeFromLockedReads : Prop :=
  ∀ (s t : State) (n : Nat) (r : Slot), step s = .next t → t.M.slots[n]? = some r → r.valid = true →
    s.M.slots[n]? ≠ some r →
    s.R.state = .sending ∧ s.inp.rready = true ∧ s.R.lock = true ∧
      r = { valid := true, addr := beatAddr s.params (readLatched s.R) s.R.addr s.R.beat, size := s.R.size }

/-! ## The edge (45_fabric_step.md) and the state (10_state.md) -/

/-- Every state has a next state, and every request kind has one at every state (R251). -/
def Obligations.EveryStateHasANextState : Prop :=
  (∀ s : State, ∃ t, step s = .next t) ∧ ∀ (i : Instr) (s : State), ∃ t, exec i s = .next t

/-- An edge runs the request its read engine serves and then the one its write engine serves: what the descriptor on the address
wires decodes to while the engine is `IDLE`, what the latched descriptor decodes to while it is busy; before them stand the
device steps (`beginEdge`), after them the master's wires of the next edge (`endEdge`); an engine with nothing to serve only
drives its wires (R240). -/
def Obligations.StepRunsTheRequestsServed : Prop :=
  ∀ s : State,
    (∀ i : Instr,
      (s.R.state = .idle ∧ s.inp.arvalid = true ∧ decode (bytesOfDescriptor (arDescriptor s.inp)) = .ok (i, [])) ∨
        (s.R.state = .sending ∧ decode (bytesOfDescriptor s.R.descriptor) = .ok (i, [])) →
      ∃ t u, exec i (beginEdge s) = .next t ∧ runWrite t = .next u ∧ step s = .next (endEdge u)) ∧
    (∀ i : Instr,
      (s.W.state = .idle ∧ s.inp.awvalid = true ∧ decode (bytesOfDescriptor (awDescriptor s.inp)) = .ok (i, [])) ∨
        (s.W.state ≠ .idle ∧ decode (bytesOfDescriptor s.W.descriptor) = .ok (i, [])) →
      ∃ t u, runRead (beginEdge s) = .next t ∧ exec i t = .next u ∧ step s = .next (endEdge u)) ∧
    (s.R.state = .idle → s.inp.arvalid = false →
      runRead (beginEdge s) = .next (driveReadIdle (beginEdge s))) ∧
    (s.W.state = .idle → s.inp.awvalid = false →
      ∃ t, runRead (beginEdge s) = .next t ∧ step s = .next (endEdge (driveWriteOpen t true false)))

/-- A request placed on the wires by `withFetchWord` is the one the very next step runs (the model's own entry,
notes/assumptions/2.md). -/
def Obligations.PlacedRequestRunsNext : Prop :=
  ∀ (s : State) (w : Nat) (i : Instr), decodeTableWord 16 w = some i →
    (i.request.dir = false →
      ∃ t u, exec i (beginEdge (s.withFetchWord 16 w)) = .next t ∧ runWrite t = .next u ∧
        step (s.withFetchWord 16 w) = .next (endEdge u)) ∧
    (i.request.dir = true →
      ∃ t u, runRead (beginEdge (s.withFetchWord 16 w)) = .next t ∧ exec i t = .next u ∧
        step (s.withFetchWord 16 w) = .next (endEdge u))

/-- Each engine's ready and valid wires say which state it was in at the edge, and the response wires carry the pending response
(R180, R182, R210, R212, R217). -/
def Obligations.HandshakeWiresFollowTheState : Prop :=
  ∀ s t : State, step s = .next t →
    t.out.arready = decide (s.R.state = .idle) ∧ t.out.rvalid = decide (s.R.state = .sending) ∧
    t.out.awready = decide (s.W.state = .idle) ∧ t.out.wready = decide (s.W.state = .acceptingData) ∧
    t.out.bvalid = decide (s.W.state = .responding) ∧ (s.R.state = .sending → t.out.rid = s.R.id) ∧
    (s.W.state = .responding → t.out.bid = s.W.id ∧ t.out.bresp = s.W.pending.code)

/-- Inputs the fabric does not read in a state make no difference to the step: only those the table of R91 lists do, and the
hints are in no row of it (R91). -/
def Obligations.UnreadWiresMakeNoDifference : Prop :=
  ∀ (s : State) (v w : MasterWires), readWiresAgree s.R.state v w → writeWiresAgree s.W.state v w →
    step { s with inp := v } = step { s with inp := w }

/-- While an engine is `IDLE`, the other fields of its transaction register make no difference to any output, nor to anything
else but themselves: after an acceptance only what the request does not latch still differs (R26). -/
def Obligations.IdleRegistersMakeNoDifference : Prop :=
  ∀ (s t : State) (r : ReadReg) (w : WriteReg), step s = .next t →
    (s.R.state = .idle → r.state = .idle →
      ∃ u, step { s with R := r } = .next u ∧ u.out = t.out ∧ u.W = t.W ∧ u.M = t.M ∧ u.registry = t.registry ∧
        (s.inp.arvalid = true → u.R = { t.R with cache := r.cache }) ∧ (s.inp.arvalid = false → u.R = r)) ∧
    (s.W.state = .idle → w.state = .idle →
      ∃ u, step { s with W := w } = .next u ∧ u.out = t.out ∧ u.R = t.R ∧ u.M = t.M ∧ u.registry = t.registry ∧
        (s.inp.awvalid = true → u.W = { t.W with pending := w.pending }) ∧ (s.inp.awvalid = false → u.W = w))

/-- No output holds its value from one evaluation to the next: the step does not read the wires it drove before (R27). -/
def Obligations.OutputsAreNotState : Prop :=
  ∀ (s : State) (o : FabricWires), step { s with out := o } = step s

/-- A stall of the write engine, or anything else it is doing, does not stall the read engine: its register and its wires after
an edge do not depend on the write register (R249). -/
def Obligations.ReadEngineIgnoresTheWriteEngine : Prop :=
  ∀ (s t u : State) (w : WriteReg), step s = .next t → step { s with W := w } = .next u →
    u.R = t.R ∧ sameReadWires u.out t.out

/-- A master that withholds its ready or valid signal stalls the engine forever: after any number of edges an engine without a
request is still `IDLE` and unchanged, a read beat without `rready` is still presented and the register differs in the cache
alone, and a write without `wvalid` in its data phase, or without `bready` in its response, stands as it was (R249;
70_reset_and_hazards.md R282). For edges past the end of `script` this rests on the model's quiet master, which is its choice
(log 3, notes/assumptions/3.md). -/
def Obligations.WithheldSignalStallsForever : Prop :=
  ∀ (n : Nat) (s : State), ∃ t, Host.Core.run Sys2Proof.core n s = .next t ∧
    (s.R.state = .idle → s.inp.arvalid = false → (∀ w ∈ s.script, w.arvalid = false) → t.R = s.R) ∧
    (s.R.state = .sending → s.inp.rready = false → (∀ w ∈ s.script, w.rready = false) →
      t.R = { s.R with cache := t.R.cache }) ∧
    (s.W.state = .idle → s.inp.awvalid = false → (∀ w ∈ s.script, w.awvalid = false) → t.W = s.W) ∧
    (s.W.state = .acceptingData → s.inp.wvalid = false → (∀ w ∈ s.script, w.wvalid = false) → t.W = s.W) ∧
    (s.W.state = .responding → s.inp.bready = false → (∀ w ∈ s.script, w.bready = false) → t.W = s.W)

/-- The codes of the four responses, and that the fabric never drives SLAVE-ERROR on a valid response (R86). -/
def Obligations.SlaveErrorIsNeverDriven : Prop :=
  (Resp.okay.code = 0b00#2 ∧ Resp.exokay.code = 0b01#2 ∧ Resp.slverr.code = 0b10#2 ∧ Resp.decerr.code = 0b11#2) ∧
  ∀ s t : State, Invariant s → step s = .next t →
    (t.out.rvalid = true → t.out.rresp ≠ 0b10#2) ∧ (t.out.bvalid = true → t.out.bresp ≠ 0b10#2)

/-- Bases, lengths and parameters are immutable: no step changes them (10_state.md R24; R7 of 00_scope.md). -/
def Obligations.RegistryAndParametersNeverChange : Prop :=
  ∀ s t : State, step s = .next t → registryRanges t.registry = registryRanges s.registry ∧ t.params = s.params

/-- The tick register shows that every device step comes before the bus phase and happens once per edge, in whatever order:
a read beat of edge `e` returns the count after the step of edge `e` (R246, C1 of 90_conflicts.md). -/
def Obligations.DeviceStepsComeBeforeTheBusPhase : Prop :=
  ∀ (s : State) (k : Nat) (base length : Addr) (c : Data),
    s.registry[k]? = some { base := base, length := length, dev := .tick c } →
    (beginEdge s).registry[k]? = some { base := base, length := length, dev := .tick (c + 1) } ∧
    (∀ off, s.R.state = .sending → s.R.cache = none →
      beatDevice s (readLatched s.R) s.R.addr s.R.beat = some (k, off) →
      ∃ t, step s = .next t ∧ t.out.rdata = c + 1)

/-- Each device has exactly one step per edge, in registration order by default (R248): the order names each position once,
and the registry that the bus phase finds is the edge's registry after those steps in that order. So a device that is no
interrupt controller is then what one step makes of it; a controller takes its step as well, and the calls of the others besides
(R247). Which devices go first is a parameter of the model (notes/assumptions/18.md). -/
def Obligations.EachDeviceStepsOncePerEdge : Prop :=
  (∀ (n : Nat) (first : List Nat), (deviceOrder n first).Perm (List.range n) ∧ deviceOrder n [] = List.range n) ∧
  ∀ s : State,
    (beginEdge s).registry = (deviceOrder s.registry.length s.params.stepFirst).foldl (stepDevice s.draws) s.registry ∧
    ∀ (k : Nat) (g : Registration), s.registry[k]? = some g →
      (∀ reg : List Registration, reg[k]? = some g →
        (stepDevice s.draws reg k)[k]? = some { g with dev := (g.dev.step s.draws).dev }) ∧
      (isController g.dev = false →
        (beginEdge s).registry[k]? = some { g with dev := (g.dev.step s.draws).dev })

/-- The fabric as constructed (R32, 70_reset_and_hazards.md R280): both engines `IDLE`, no cached value, as many slots as
`CAPACITY` and none valid, cursor 0; and the state after reset is that at the default parameters of R7. -/
def Obligations.ResetLeavesWhatTheSpecSays : Prop :=
  (∀ (p : Params) (reg : List Registration),
    (State.construct p reg).R.state = .idle ∧ (State.construct p reg).R.cache = none ∧
    (State.construct p reg).W.state = .idle ∧ (State.construct p reg).M.slots.length = p.capacity ∧
    (∀ t ∈ (State.construct p reg).M.slots, t.valid = false) ∧ (State.construct p reg).M.cursor = 0 ∧
    (State.construct p reg).registry = reg ∧ (State.construct p reg).params = p) ∧
  State.reset.R.state = .idle ∧ State.reset.W.state = .idle ∧ State.reset.R.cache = none ∧
  State.reset.M.slots.length = 2 ∧ State.reset.M.cursor = 0

/-- The invariant holds of the fabric as constructed, whatever the registry, if `CAPACITY` is at least 1 and the devices'
storage has its canonical form; and it holds after reset. -/
def Obligations.ConstructionMeetsTheInvariant : Prop :=
  (∀ (p : Params) (reg : List Registration), 0 < p.capacity → registryWf reg → Invariant (State.construct p reg)) ∧
    Invariant State.reset

/-- Every step keeps the invariant, from every state that meets it, whether a run reaches it or not (10_state.md R31, R30,
R81, R86). -/
def Obligations.EveryStepKeepsTheInvariant : Prop :=
  ∀ s t : State, Invariant s → step s = .next t → Invariant t

/-! ## Whole transactions (70_reset_and_hazards.md R291) -/

/-- A read burst, beat by beat, while the master is always ready: one edge accepts it, each further edge delivers one valid
beat, and the burst ends with burst-last at the edge of its beat `len` or of its first decode error `m`, whichever comes first;
that edge leaves the engine `IDLE`. The write channel, the other wires and the devices are arbitrary (R291, R262, R189). That the
latched id is the wire's number cut to `ID_WIDTH` is the model's (notes/assumptions/8.md). -/
def Obligations.ReadBurstRunsBeatByBeat : Prop :=
  ∀ (s : State) (q : Request) (m : Nat),
    s.R.state = .idle → s.R.cache = none → s.inp.arvalid = true → q = readOffered s.inp → m ≤ q.len.toNat →
    (∀ j, j ≤ m → ∃ w, s.script[j]? = some w ∧ w.rready = true) →
    (∀ j, j < m → (beatDevice s q s.inp.araddr j).isSome = true) →
    (∃ t, Host.Core.run Sys2Proof.core (m + 1) s = .next t ∧ t.R.state = .sending ∧ t.R.beat = m ∧
      (0 < m → t.out.rvalid = true ∧ t.out.rlast = false ∧
        t.out.rresp = (if q.lock then 0b01#2 else 0b00#2))) ∧
    (m = q.len.toNat ∨ beatDevice s q s.inp.araddr m = none →
      ∃ t, Host.Core.run Sys2Proof.core (m + 2) s = .next t ∧ t.R.state = .idle ∧ t.out.rvalid = true ∧
        t.out.rlast = true ∧ t.out.rid = s.inp.arid % 2 ^ s.params.idWidth ∧
        t.out.rresp =
          (if beatDevice s q s.inp.araddr m = none then 0b11#2 else if q.lock then 0b01#2 else 0b00#2))

/-- A write burst, beat by beat, while the master always has data and is ready: one edge accepts it, each further edge takes one
data beat, and the data phase ends at the beat marked last or at the first decode error, beat `m`, whatever `len` is; the next
edge offers the response, DECERR after a decode error and never otherwise, OKAY for an unlocked write, and leaves the engine
`IDLE` (R291, R215, R216, R264). That the latched id is the wire's number cut to `ID_WIDTH` is the model's
(notes/assumptions/8.md). -/
def Obligations.WriteBurstRunsBeatByBeat : Prop :=
  ∀ (s : State) (q : Request) (m : Nat),
    s.W.state = .idle → s.inp.awvalid = true → q = writeOffered s.inp →
    (∀ j, j ≤ m → ∃ w, s.script[j]? = some w ∧ w.wvalid = true ∧ (j < m → w.wlast = false)) →
    (∀ j, j < m → (beatDevice s q s.inp.awaddr j).isSome = true) →
    (∃ t, Host.Core.run Sys2Proof.core (m + 1) s = .next t ∧ t.W.state = .acceptingData ∧ t.W.beat = m) ∧
    (∀ wm wr, s.script[m]? = some wm → wm.wlast = true ∨ beatDevice s q s.inp.awaddr m = none →
      s.script[m + 1]? = some wr → wr.bready = true →
      ∃ t, Host.Core.run Sys2Proof.core (m + 3) s = .next t ∧ t.W.state = .idle ∧ t.out.bvalid = true ∧
        t.out.bid = s.inp.awid % 2 ^ s.params.idWidth ∧
        (t.out.bresp = 0b11#2 ↔ beatDevice s q s.inp.awaddr m = none) ∧
        (q.lock = false → beatDevice s q s.inp.awaddr m ≠ none → t.out.bresp = 0b00#2))

/-- A valid read beat that is stalled over any number of edges, whatever the devices, the write engine and the rest of the
wires do in them: the value its device gave in the first of them is on `rdata` and in the cache after the last, nothing else of
the register has changed, and the read evaluation of the next edge presents that value again and calls no device, be it
handshaked there or not (R186, R188; 20_memory.md R58, 70_reset_and_hazards.md R284). The wires of all the stalled edges are
in `inp` and `script`, so nothing here rests on log 3. -/
def Obligations.StalledValueStaysOverEdges : Prop :=
  ∀ (n : Nat) (s : State) (k : Nat) (off : Addr) (g : Registration) (v : Data),
    s.R.state = .sending → s.R.cache = none →
    beatDevice s (readLatched s.R) s.R.addr s.R.beat = some (k, off) →
    (beginEdge s).registry[k]? = some g → v = (g.dev.read off s.R.size).1 →
    s.inp.rready = false → (∀ j, j < n → ∃ w, s.script[j]? = some w ∧ w.rready = false) →
    ∃ t, Host.Core.run Sys2Proof.core (n + 1) s = .next t ∧
      t.out.rvalid = true ∧ t.out.rdata = v ∧ t.R = { s.R with cache := some v } ∧
      ∃ u, runRead (beginEdge t) = .next u ∧ u.registry = (beginEdge t).registry ∧ u.out.rvalid = true ∧ u.out.rdata = v
end

