-- ==== Sys2Proof/Laws/Decode.lean ====
section
/-!
SUPPORT. The fields a descriptor holds, and what the decoded request's fields are.
-/

namespace Sys2Proof

/-- Bit `i` of packed fields, field by field. -/
theorem packDescriptor_getLsbD (dir lock : Bool) (burst : BurstField) (size : SizeField) (len : LenField) (i : Nat) :
    (packDescriptor dir lock burst size len).getLsbD i =
      if i < 15 then
        if i < 14 then
          if i < 12 then
            if i < 11 then if i < 8 then len.getLsbD i else size.getLsbD (i - 8)
            else (0#1).getLsbD (i - 11)
          else burst.getLsbD (i - 12)
        else (BitVec.ofBool lock).getLsbD (i - 14)
      else (BitVec.ofBool dir).getLsbD (i - 15) := by
  have h (x : BitVec (1 + (1 + (2 + (1 + (3 + 8)))))) (y : BitVec 16) (e : x = y) : y.getLsbD i = x.getLsbD i := by
    rw [e]
  refine (h (BitVec.ofBool dir ++ (BitVec.ofBool lock ++ (burst ++ (0#1 ++ (size ++ len))))) _ rfl).trans ?_
  simp only [BitVec.getLsbD_append]

@[simp] theorem descDir_pack (dir lock : Bool) (burst : BurstField) (size : SizeField) (len : LenField) :
    descDir (packDescriptor dir lock burst size len) = dir := by
  simp only [descDir, packDescriptor_getLsbD]
  cases dir <;> rfl

@[simp] theorem descLock_pack (dir lock : Bool) (burst : BurstField) (size : SizeField) (len : LenField) :
    descLock (packDescriptor dir lock burst size len) = lock := by
  simp only [descLock, packDescriptor_getLsbD]
  cases lock <;> rfl

@[simp] theorem descBurst_pack (dir lock : Bool) (burst : BurstField) (size : SizeField) (len : LenField) :
    descBurst (packDescriptor dir lock burst size len) = burst := by
  apply BitVec.eq_of_getLsbD_eq
  intro i hi
  have h1 : 12 + i < 15 := by omega
  have h2 : 12 + i < 14 := by omega
  have h3 : ¬ 12 + i < 12 := by omega
  have h4 : 12 + i - 12 = i := by omega
  simp only [descBurst, BitVec.getLsbD_extractLsb', packDescriptor_getLsbD, h1, h2, h3, h4, if_true, if_false, hi,
    decide_true, Bool.true_and]

@[simp] theorem descSize_pack (dir lock : Bool) (burst : BurstField) (size : SizeField) (len : LenField) :
    descSize (packDescriptor dir lock burst size len) = size := by
  apply BitVec.eq_of_getLsbD_eq
  intro i hi
  have h1 : 8 + i < 15 := by omega
  have h2 : 8 + i < 14 := by omega
  have h3 : 8 + i < 12 := by omega
  have h4 : 8 + i < 11 := by omega
  have h5 : ¬ 8 + i < 8 := by omega
  have h6 : 8 + i - 8 = i := by omega
  simp only [descSize, BitVec.getLsbD_extractLsb', packDescriptor_getLsbD, h1, h2, h3, h4, h5, h6, if_true, if_false, hi,
    decide_true, Bool.true_and]

@[simp] theorem descLen_pack (dir lock : Bool) (burst : BurstField) (size : SizeField) (len : LenField) :
    descLen (packDescriptor dir lock burst size len) = len := by
  apply BitVec.eq_of_getLsbD_eq
  intro i hi
  have h1 : i < 15 := by omega
  have h2 : i < 14 := by omega
  have h3 : i < 12 := by omega
  have h4 : i < 11 := by omega
  simp only [descLen, BitVec.getLsbD_extractLsb', packDescriptor_getLsbD, Nat.zero_add, h1, h2, h3, h4, if_true, hi,
    decide_true, Bool.true_and]

/-- A raw burst field is a mode's code, or the invalid value. -/
theorem Config.burstMode_cases (b : BurstField) :
    (Config.burstMode b = some .fixed ∧ b = BurstMode.fixed.code) ∨
    (Config.burstMode b = some .incr ∧ b = BurstMode.incr.code) ∨
    (Config.burstMode b = some .wrap ∧ b = BurstMode.wrap.code) ∨ (Config.burstMode b = none ∧ b = badBurstCode) := by
  revert b
  decide

/-- The fields of a decoded request are the descriptor's. -/
theorem decodeDescriptor_request (d : BitVec 16) :
    (decodeDescriptor d).request = ⟨descDir d, descLock d, descBurst d, descSize d, descLen d⟩ := by
  rcases Config.burstMode_cases (descBurst d) with ⟨hm, hb⟩ | ⟨hm, hb⟩ | ⟨hm, hb⟩ | ⟨hm, hb⟩ <;>
    cases hd : descDir d <;> cases hl : descLock d <;>
    (simp only [decodeDescriptor, hm, hd, hl]; simp [hb, Instr.request])

/-- The fields of the request decoded from packed fields are those fields. -/
theorem decodeDescriptor_pack_request (dir lock : Bool) (burst : BurstField) (size : SizeField) (len : LenField) :
    (decodeDescriptor (packDescriptor dir lock burst size len)).request = ⟨dir, lock, burst, size, len⟩ := by
  rw [decodeDescriptor_request]
  simp

/-- The two bytes of a descriptor are put together again. -/
theorem descriptorOfBytes_bytes (d : BitVec 16) : descriptorOfBytes (d.extractLsb' 0 8) (d.extractLsb' 8 8) = d := by
  apply BitVec.eq_of_getLsbD_eq
  intro i hi
  simp only [descriptorOfBytes, BitVec.getLsbD_append, BitVec.getLsbD_extractLsb']
  split
  · rename_i h
    simp [h]
  · rename_i h
    have : 8 + (i - 8) = i := by omega
    have h8 : i - 8 < 8 := by omega
    simp [this, h8]

/-- Decoding the bytes of a descriptor. -/
theorem decode_bytes (d : BitVec 16) (rest : List Byte) :
    decode (bytesOfDescriptor d ++ rest) = .ok (decodeDescriptor d, rest) := by
  simp [bytesOfDescriptor, decode, descriptorOfBytes_bytes]

end Sys2Proof
end

