-- ==== Sys2Proof/Laws/Memory.lean ====
section
/-!
SUPPORT. Byte storage: what a read gives after a write, and the canonical form that every write keeps.
-/

namespace Sys2Proof

/-! ## Reads after writes -/

theorem Memory.lookup_of_lt (x : Nat) (cells : List Host.Cell) (h : ∀ c ∈ cells, x < c.1) :
    Memory.lookup x cells = Memory.unlisted x := by
  induction cells with
  | nil => rfl
  | cons c rest ih =>
    obtain ⟨y, b⟩ := c
    have hy : x < y := h (y, b) (by simp)
    have hne : y ≠ x := by omega
    simp only [Memory.lookup, hne, if_false]
    exact ih (fun d hd => h d (by simp [hd]))

theorem Memory.lookup_store_other (x z : Nat) (b : Byte) (cells : List Host.Cell) (hz : z ≠ x) :
    Memory.lookup z (Memory.store x b cells) = Memory.lookup z cells := by
  have hx : x ≠ z := fun h => hz h.symm
  induction cells with
  | nil =>
    simp only [Memory.store]
    split <;> simp [Memory.lookup, hx]
  | cons c rest ih =>
    obtain ⟨y, d⟩ := c
    simp only [Memory.store]
    split
    · split <;> simp [Memory.lookup, hx]
    · split
      · rename_i _ hxy
        subst hxy
        split <;> simp [Memory.lookup, hx]
      · simp only [Memory.lookup, ih]

theorem Memory.lookup_store_same (x : Nat) (b : Byte) (cells : List Host.Cell)
    (h : cells.Pairwise (fun c d => c.1 < d.1)) : Memory.lookup x (Memory.store x b cells) = b := by
  induction cells with
  | nil =>
    simp only [Memory.store]
    split
    · rename_i hb
      simp [Memory.lookup, hb]
    · simp [Memory.lookup]
  | cons c rest ih =>
    obtain ⟨y, d⟩ := c
    rw [List.pairwise_cons] at h
    simp only [Memory.store]
    split
    · rename_i hxy
      split
      · rename_i hb
        rw [Memory.lookup_of_lt]
        · exact hb.symm
        · intro e he
          rcases List.mem_cons.mp he with rfl | he
          · exact hxy
          · have := h.1 e he
            simp only at this
            omega
      · simp [Memory.lookup]
    · split
      · rename_i _ hxy
        subst hxy
        split
        · rename_i hb
          rw [Memory.lookup_of_lt x rest (fun e he => h.1 e he)]
          exact hb.symm
        · simp [Memory.lookup]
      · rename_i _ hxy
        have hyx : y ≠ x := fun h => hxy h.symm
        simp only [Memory.lookup, hyx, if_false]
        exact ih h.2

/-- A byte written is the byte read. -/
theorem Memory.read_write_same (m : Memory) (x : Nat) (b : Byte) (h : m.wf) : (m.write x b).read x = b :=
  Memory.lookup_store_same x b m.cells h.1

/-- A write leaves every other byte. -/
theorem Memory.read_write_other (m : Memory) (x z : Nat) (b : Byte) (hz : z ≠ x) :
    (m.write x b).read z = m.read z :=
  Memory.lookup_store_other x z b m.cells hz

/-- Writing some cells leaves every byte they do not name. -/
theorem Memory.read_writeAll_other (cells : List Host.Cell) (m : Memory) (z : Nat) (hz : ∀ c ∈ cells, z ≠ c.1) :
    (m.writeAll cells).read z = m.read z := by
  induction cells generalizing m with
  | nil => rfl
  | cons c rest ih =>
    show ((m.write c.1 c.2).writeAll rest).read z = m.read z
    rw [ih (m.write c.1 c.2) (fun d hd => hz d (by simp [hd])), Memory.read_write_other _ _ _ _ (hz c (by simp))]

/-! ## The canonical form -/

theorem Memory.mem_store (x : Nat) (b : Byte) (cells : List Host.Cell) (c : Host.Cell)
    (hc : c ∈ Memory.store x b cells) : (c = (x, b) ∧ b ≠ Memory.unlisted x) ∨ c ∈ cells := by
  induction cells with
  | nil =>
    simp only [Memory.store] at hc
    split at hc
    · simp at hc
    · rename_i hb
      exact .inl ⟨by simpa using hc, hb⟩
  | cons e rest ih =>
    obtain ⟨y, d⟩ := e
    simp only [Memory.store] at hc
    split at hc
    · split at hc
      · exact .inr hc
      · rename_i hb
        rcases List.mem_cons.mp hc with rfl | hc
        · exact .inl ⟨rfl, hb⟩
        · exact .inr hc
    · split at hc
      · split at hc
        · exact .inr (by simp [hc])
        · rename_i hb
          rcases List.mem_cons.mp hc with rfl | hc
          · exact .inl ⟨rfl, hb⟩
          · exact .inr (by simp [hc])
      · rcases List.mem_cons.mp hc with rfl | hc
        · exact .inr (by simp)
        · rcases ih hc with h | h
          · exact .inl h
          · exact .inr (by simp [h])

theorem Memory.pairwise_store (x : Nat) (b : Byte) (cells : List Host.Cell)
    (h : cells.Pairwise (fun c d => c.1 < d.1)) : (Memory.store x b cells).Pairwise (fun c d => c.1 < d.1) := by
  induction cells with
  | nil =>
    simp only [Memory.store]
    split <;> simp
  | cons e rest ih =>
    obtain ⟨y, d⟩ := e
    have h' := h
    rw [List.pairwise_cons] at h
    simp only [Memory.store]
    split
    · rename_i hxy
      split
      · exact h'
      · refine List.pairwise_cons.mpr ⟨fun c hc => ?_, h'⟩
        rcases List.mem_cons.mp hc with rfl | hc
        · exact hxy
        · have := h.1 c hc
          simp only at this ⊢
          omega
    · split
      · rename_i _ hxy
        subst hxy
        split
        · exact h.2
        · exact List.pairwise_cons.mpr ⟨h.1, h.2⟩
      · rename_i hlt hne
        refine List.pairwise_cons.mpr ⟨fun c hc => ?_, ih h.2⟩
        rcases Memory.mem_store x b rest c hc with ⟨rfl, -⟩ | hc
        · simp only
          omega
        · exact h.1 c hc

/-- A write keeps the canonical form. -/
theorem Memory.write_wf (m : Memory) (x : Nat) (b : Byte) (h : m.wf) : (m.write x b).wf := by
  refine ⟨Memory.pairwise_store x b m.cells h.1, fun c hc => ?_⟩
  rcases Memory.mem_store x b m.cells c hc with ⟨rfl, hb⟩ | hc
  · exact hb
  · exact h.2 c hc

/-- Writing some cells keeps the canonical form. -/
theorem Memory.writeAll_wf (cells : List Host.Cell) (m : Memory) (h : m.wf) : (m.writeAll cells).wf := by
  induction cells generalizing m with
  | nil => exact h
  | cons c rest ih => exact ih (m.write c.1 c.2) (Memory.write_wf m c.1 c.2 h)

/-- The storage that lists nothing has the canonical form. -/
theorem Memory.empty_wf : (⟨[]⟩ : Memory).wf := by simp [Memory.wf]

namespace Machine

/-- A `TRAM` write keeps the canonical form. -/
theorem tramStore_wf (length : Nat) (mem : Memory) (off : Nat) (v : Data) (mask : Strobe) (n : Nat) (h : mem.wf) :
    (tramStore length mem off v mask n).wf := by
  induction n with
  | zero => exact h
  | succ n ih =>
    simp only [tramStore]
    split
    · exact Memory.write_wf _ _ _ ih
    · exact ih

/-- A `TRAM` write leaves the bytes of lanes the mask does not select, and all bytes outside the access (R245). -/
theorem tramStore_other (length : Nat) (mem : Memory) (off : Nat) (v : Data) (mask : Strobe) (n z : Nat)
    (hz : ∀ lane, lane < n → mask.getLsbD lane = true → z ≠ off + lane) :
    (tramStore length mem off v mask n).read z = mem.read z := by
  induction n with
  | zero => rfl
  | succ n ih =>
    have ih := ih (fun lane hl => hz lane (by omega))
    simp only [tramStore]
    split
    · rename_i hm
      rw [Memory.read_write_other _ _ _ _ (hz n (by omega) hm.1), ih]
    · exact ih

end Machine

end Sys2Proof
end

