-- ==== Sys2Proof/Laws/Devices.lean ====
section
/-!
SUPPORT. What a device access, a device step and an interrupt call can do to the registry: the bases and lengths stay, the
storage keeps its form, and only the device itself and interrupt controllers change.
-/

namespace Sys2Proof.Machine

open Sys2Proof.Safety

/-! ## Bases and lengths (R24) -/

@[simp] theorem registryRanges_modify_dev (reg : List Registration) (k : Nat) (f : Device → Device) :
    registryRanges (reg.modify k (fun g => { g with dev := f g.dev })) = registryRanges reg := by
  apply List.ext_getElem?
  intro i
  simp only [registryRanges, List.getElem?_map, List.getElem?_modify]
  by_cases h : k = i <;> simp [h]
  cases reg[i]? <;> rfl

@[simp] theorem registryRanges_setDevice (reg : List Registration) (k : Nat) (d : Device) :
    registryRanges (setDevice reg k d) = registryRanges reg :=
  registryRanges_modify_dev reg k (fun _ => d)

@[simp] theorem registryRanges_deliverIrq (caller : Nat) (reg : List Registration) (c : IrqCall) :
    registryRanges (deliverIrq caller reg c) = registryRanges reg := by
  unfold deliverIrq
  split
  · rfl
  · exact registryRanges_modify_dev reg c.target (fun d => d.setInterruptLevel c.source c.level)

theorem registryRanges_settleDevice (reg : List Registration) (k : Nat) (a : DeviceAfter) :
    registryRanges (settleDevice reg k a) = registryRanges reg := by
  unfold settleDevice
  rw [← registryRanges_setDevice reg k a.dev]
  generalize setDevice reg k a.dev = r
  induction a.irqs generalizing r with
  | nil => rfl
  | cons c rest ih =>
    rw [List.foldl_cons, ih, registryRanges_deliverIrq]

theorem registryRanges_readDevice (reg : List Registration) (k : Nat) (off : Addr) (size : SizeField) :
    registryRanges (readDevice reg k off size).2 = registryRanges reg := by
  unfold readDevice
  split
  · exact registryRanges_settleDevice _ _ _
  · rfl

theorem registryRanges_writeDevice (reg : List Registration) (k : Nat) (off : Addr) (v : Data) (size : SizeField)
    (mask : Strobe) : registryRanges (writeDevice reg k off v size mask) = registryRanges reg := by
  unfold writeDevice
  split
  · exact registryRanges_settleDevice _ _ _
  · rfl

theorem registryRanges_stepDevice (draw : Nat) (reg : List Registration) (k : Nat) :
    registryRanges (stepDevice draw reg k) = registryRanges reg := by
  unfold stepDevice
  split
  · exact registryRanges_settleDevice _ _ _
  · rfl

theorem registryRanges_stepDevices (draw : Nat) (first : List Nat) (reg : List Registration) :
    registryRanges (stepDevices draw first reg) = registryRanges reg := by
  unfold stepDevices
  generalize deviceOrder reg.length first = order
  induction order generalizing reg with
  | nil => rfl
  | cons k rest ih =>
    rw [List.foldl_cons, ih, registryRanges_stepDevice]

/-- The decoder sees only bases and lengths (R114). -/
theorem busDecode_of_ranges {r1 r2 : List Registration} (h : registryRanges r1 = registryRanges r2) (a : Addr) :
    busDecode r1 a = busDecode r2 a := by
  unfold busDecode
  generalize 0 = k
  induction r1 generalizing r2 k with
  | nil =>
    cases r2 with
    | nil => rfl
    | cons g t => simp [registryRanges] at h
  | cons g1 t1 ih =>
    cases r2 with
    | nil => simp [registryRanges] at h
    | cons g2 t2 =>
      simp only [registryRanges, List.map_cons, List.cons.injEq, Prod.mk.injEq] at h
      have hc : g1.covers a = g2.covers a := by unfold Registration.covers; rw [h.1.1, h.1.2]
      simp only [busDecodeFrom, hc, h.1.1, ih h.2]

/-- A beat's device and offset depend only on bases and lengths. -/
theorem beatTarget_of_ranges {r1 r2 : List Registration} (h : registryRanges r1 = registryRanges r2) (a start : Addr) :
    beatTarget r1 a start = beatTarget r2 a start := by
  unfold beatTarget
  rw [busDecode_of_ranges h]

/-! ## The canonical form -/

theorem Device.read_wf (d : Device) (off : Addr) (size : SizeField) (h : storageWf d) :
    storageWf (d.read off size).2.dev := by
  cases d with
  | tram length mem => exact h
  | cnt c => trivial
  | tick t => trivial
  | outside o => exact Memory.writeAll_wf _ _ h

theorem Device.write_wf (d : Device) (off : Addr) (v : Data) (size : SizeField) (mask : Strobe) (h : storageWf d) :
    storageWf (d.write off v size mask).dev := by
  cases d with
  | tram length mem => exact tramStore_wf _ _ _ _ _ _ h
  | cnt c => trivial
  | tick t => trivial
  | outside o => exact Memory.writeAll_wf _ _ h

theorem Device.step_wf (d : Device) (draw : Nat) (h : storageWf d) : storageWf (d.step draw).dev := by
  cases d with
  | tram length mem => exact h
  | cnt c => trivial
  | tick t => trivial
  | outside o =>
    simp only [Device.step]
    split
    · exact Memory.writeAll_wf _ _ h
    · exact h

theorem Device.setInterruptLevel_wf (d : Device) (source : Nat) (level : Nat) (h : storageWf d) :
    storageWf (d.setInterruptLevel source level) := by
  cases d with
  | tram length mem => exact h
  | cnt c => trivial
  | tick t => trivial
  | outside o =>
    simp only [Device.setInterruptLevel]
    split
    · exact Memory.writeAll_wf _ _ h
    · exact h

theorem registryWf_modify (reg : List Registration) (k : Nat) (f : Registration → Registration) (h : registryWf reg)
    (hf : ∀ g, reg[k]? = some g → storageWf (f g).dev) : registryWf (reg.modify k f) := by
  intro g hg
  obtain ⟨i, hi⟩ := List.mem_iff_getElem?.mp hg
  rw [List.getElem?_modify] at hi
  by_cases hk : k = i
  · subst hk
    cases hr : reg[k]? with
    | none => simp [hr] at hi
    | some g0 =>
      simp only [hr, if_true, Option.map_eq_map, Option.map_some, Option.some.injEq] at hi
      rw [← hi]
      exact hf g0 hr
  · simp only [hk, if_false, Option.map_eq_map] at hi
    exact h g (List.mem_of_getElem? (by simpa using hi))

theorem registryWf_settleDevice (reg : List Registration) (k : Nat) (a : DeviceAfter) (h : registryWf reg)
    (ha : storageWf a.dev) : registryWf (settleDevice reg k a) := by
  unfold settleDevice
  have h0 : registryWf (setDevice reg k a.dev) := registryWf_modify reg k _ h (fun _ _ => ha)
  generalize setDevice reg k a.dev = r at h0
  induction a.irqs generalizing r with
  | nil => exact h0
  | cons c rest ih =>
    refine ih (deliverIrq k r c) ?_
    unfold deliverIrq
    split
    · exact h0
    · exact registryWf_modify r _ _ h0
        (fun g hg => Device.setInterruptLevel_wf _ _ _ (h0 g (List.mem_of_getElem? hg)))

theorem registryWf_readDevice (reg : List Registration) (k : Nat) (off : Addr) (size : SizeField) (h : registryWf reg) :
    registryWf (readDevice reg k off size).2 := by
  unfold readDevice
  split
  · rename_i g hg
    exact registryWf_settleDevice _ _ _ h (Device.read_wf _ _ _ (h g (List.mem_of_getElem? hg)))
  · exact h

theorem registryWf_writeDevice (reg : List Registration) (k : Nat) (off : Addr) (v : Data) (size : SizeField)
    (mask : Strobe) (h : registryWf reg) : registryWf (writeDevice reg k off v size mask) := by
  unfold writeDevice
  split
  · rename_i g hg
    exact registryWf_settleDevice _ _ _ h (Device.write_wf _ _ _ _ _ (h g (List.mem_of_getElem? hg)))
  · exact h

theorem registryWf_stepDevices (draw : Nat) (first : List Nat) (reg : List Registration) (h : registryWf reg) :
    registryWf (stepDevices draw first reg) := by
  unfold stepDevices
  generalize deviceOrder reg.length first = order
  induction order generalizing reg with
  | nil => exact h
  | cons k rest ih =>
    refine ih (stepDevice draw reg k) ?_
    unfold stepDevice
    split
    · rename_i g hg
      exact registryWf_settleDevice _ _ _ h (Device.step_wf _ _ (h g (List.mem_of_getElem? hg)))
    · exact h

/-! ## Who changes -/

/-- Interrupt calls change no device but interrupt controllers (R247). -/
theorem Device.setInterruptLevel_of_not_controller (d : Device) (source : Nat) (level : Nat)
    (h : isController d = false) : d.setInterruptLevel source level = d := by
  cases d with
  | tram length mem => rfl
  | cnt c => rfl
  | tick t => rfl
  | outside o =>
    have h' : o.irqController = false := h
    simp [Device.setInterruptLevel, h']

theorem deliverIrq_getElem? (caller : Nat) (reg : List Registration) (c : IrqCall) (j : Nat) (g : Registration)
    (hg : reg[j]? = some g) (hj : j = caller ∨ isController g.dev = false) : (deliverIrq caller reg c)[j]? = some g := by
  unfold deliverIrq
  split
  · exact hg
  · rename_i hc
    rw [List.getElem?_modify, hg]
    rcases hj with rfl | hj
    · simp [hc]
    · by_cases ht : c.target = j
      · simp [ht, Device.setInterruptLevel_of_not_controller _ _ _ hj]
      · simp [ht]

/-- The device that was operated on ends in the state the operation gave it. -/
theorem settleDevice_self (reg : List Registration) (k : Nat) (a : DeviceAfter) (g : Registration) (hg : reg[k]? = some g) :
    (settleDevice reg k a)[k]? = some { g with dev := a.dev } := by
  have h0 : (setDevice reg k a.dev)[k]? = some { g with dev := a.dev } := by
    simp [setDevice, hg]
  unfold settleDevice
  generalize setDevice reg k a.dev = r at h0
  induction a.irqs generalizing r with
  | nil => exact h0
  | cons c rest ih => exact ih (deliverIrq k r c) (deliverIrq_getElem? k r c k _ h0 (.inl rfl))

/-- Every other device that is no interrupt controller is unchanged. -/
theorem settleDevice_other (reg : List Registration) (k : Nat) (a : DeviceAfter) (j : Nat) (g : Registration) (hjk : j ≠ k)
    (hg : reg[j]? = some g) (hj : isController g.dev = false) : (settleDevice reg k a)[j]? = some g := by
  have h0 : (setDevice reg k a.dev)[j]? = some g := by
    have : k ≠ j := fun h => hjk h.symm
    simp [setDevice, hg, this]
  unfold settleDevice
  generalize setDevice reg k a.dev = r at h0
  induction a.irqs generalizing r with
  | nil => exact h0
  | cons c rest ih => exact ih (deliverIrq k r c) (deliverIrq_getElem? k r c j g h0 (.inr hj))

/-- What a device read does: the value is the device's, the device takes its new state. -/
theorem readDevice_spec (reg : List Registration) (k : Nat) (off : Addr) (size : SizeField) (g : Registration)
    (hg : reg[k]? = some g) :
    (readDevice reg k off size).1 = (g.dev.read off size).1 ∧
      (readDevice reg k off size).2[k]? = some { g with dev := (g.dev.read off size).2.dev } := by
  simp only [readDevice, hg]
  exact ⟨trivial, settleDevice_self reg k _ g hg⟩

/-- What a device write does: the device takes its new state. -/
theorem writeDevice_spec (reg : List Registration) (k : Nat) (off : Addr) (v : Data) (size : SizeField) (mask : Strobe)
    (g : Registration) (hg : reg[k]? = some g) :
    (writeDevice reg k off v size mask)[k]? = some { g with dev := (g.dev.write off v size mask).dev } := by
  simp only [writeDevice, hg]
  exact settleDevice_self reg k _ g hg

/-- What a device step does: the device takes its new state (R246). -/
theorem stepDevice_spec (draw : Nat) (reg : List Registration) (k : Nat) (g : Registration) (hg : reg[k]? = some g) :
    (stepDevice draw reg k)[k]? = some { g with dev := (g.dev.step draw).dev } := by
  simp only [stepDevice, hg]
  exact settleDevice_self reg k _ g hg

/-- The step of another device leaves a device that is no interrupt controller as it was. -/
theorem stepDevice_other (draw : Nat) (reg : List Registration) (k j : Nat) (g : Registration) (hjk : j ≠ k)
    (hg : reg[j]? = some g) (hj : isController g.dev = false) : (stepDevice draw reg k)[j]? = some g := by
  unfold stepDevice
  split
  · exact settleDevice_other reg k _ j g hjk hg hj
  · exact hg

/-- A step makes no device an interrupt controller, nor takes the operation from one (R247). -/
@[simp] theorem isController_step (d : Device) (draw : Nat) : isController (d.step draw).dev = isController d := by
  cases d with
  | outside o => cases h : o.hasStep <;> simp [Device.step, h, isController, outsideAfter]
  | tram length mem => rfl
  | cnt c => rfl
  | tick t => rfl

end Sys2Proof.Machine
end

