-- ==== Sys2Proof/Laws/Exclusive.lean ====
section
/-!
SUPPORT. The exclusive monitor: the table's size and cursor, and what each operation does to one slot.
-/

namespace Sys2Proof.Machine

/-! ## Size and cursor -/

@[simp] theorem Monitor.reserve_length (m : Monitor) (a : Addr) (s : SizeField) :
    (m.reserve a s).slots.length = m.slots.length := by
  unfold Monitor.reserve
  split <;> simp

@[simp] theorem Monitor.invalidate_length (m : Monitor) (a : Addr) (s : SizeField) :
    (m.invalidateConflicting a s).slots.length = m.slots.length := by
  simp [Monitor.invalidateConflicting]

@[simp] theorem Monitor.invalidate_cursor (m : Monitor) (a : Addr) (s : SizeField) :
    (m.invalidateConflicting a s).cursor = m.cursor := rfl

/-- A reservation keeps the cursor inside the table. -/
theorem Monitor.reserve_cursor_lt (m : Monitor) (a : Addr) (s : SizeField) (h : m.cursor < m.slots.length) :
    (m.reserve a s).cursor < m.slots.length := by
  unfold Monitor.reserve
  split
  · exact h
  · exact Nat.mod_lt _ (by omega)

/-! ## One slot -/

/-- What clearing does to one slot. -/
theorem Monitor.invalidate_getElem? (m : Monitor) (a : Addr) (s : SizeField) (i : Nat) :
    (m.invalidateConflicting a s).slots[i]? =
      (m.slots[i]?).map (fun t => if t.conflictsWith a s then { t with valid := false } else t) := by
  simp [Monitor.invalidateConflicting]

/-- A hit names a live slot that starts at the address. -/
theorem Monitor.hit_iff (m : Monitor) (a : Addr) :
    m.hit a = true ↔ ∃ t ∈ m.slots, t.valid = true ∧ t.addr = a := by
  simp [Monitor.hit]

/-- After a reservation an address matches only if it matched before or is the one just reserved. -/
theorem Monitor.hit_of_hit_reserve (m : Monitor) (a b : Addr) (s : SizeField) (h : (m.reserve b s).hit a = true) :
    m.hit a = true ∨ b = a := by
  rw [Monitor.hit_iff] at h ⊢
  obtain ⟨t, ht, hv, ha⟩ := h
  have hm : t ∈ m.slots ∨ t = { valid := true, addr := b, size := s } := by
    unfold Monitor.reserve at ht
    split at ht <;> exact List.mem_or_eq_of_mem_set ht
  rcases hm with hm | rfl
  · exact .inl ⟨t, hm, hv, ha⟩
  · exact .inr ha

/-- A table with a slot at the cursor holds the reservation just made. -/
theorem Monitor.hit_reserve (m : Monitor) (a : Addr) (s : SizeField) (h : m.cursor < m.slots.length) :
    (m.reserve a s).hit a = true := by
  rw [Monitor.hit_iff]
  unfold Monitor.reserve
  split
  · rename_i i hi
    have hlt : i < m.slots.length := (List.findIdx?_eq_some_iff_getElem.mp hi).1
    exact ⟨_, List.mem_set hlt _, rfl, rfl⟩
  · exact ⟨_, List.mem_set h _, rfl, rfl⟩

/-- A range meets the range of an access at the same address. -/
theorem intersects_same (a : Addr) (s1 s2 : SizeField) : intersects a s1 a s2 = true := by
  simp [intersects]

end Sys2Proof.Machine
end

