-- ==== Sys2Proof/Laws/Operands.lean ====
section
/-!
SUPPORT. The address decoder's scan and the burst addresses as numbers.
-/

namespace Sys2Proof.Machine

/-- What a successful scan found: a registration that covers the address, and the offset in it. -/
theorem busDecodeFrom_some (a : Addr) (k0 : Nat) (reg : List Registration) (k : Nat) (off : Addr)
    (h : busDecodeFrom a k0 reg = some (k, off)) :
    k0 ≤ k ∧ ∃ g, reg[k - k0]? = some g ∧ g.covers a = true ∧ off = a - g.base := by
  induction reg generalizing k0 with
  | nil => simp [busDecodeFrom] at h
  | cons g rest ih =>
    simp only [busDecodeFrom] at h
    split at h
    · rename_i hc
      simp only [Option.some.injEq, Prod.mk.injEq] at h
      obtain ⟨rfl, rfl⟩ := h
      exact ⟨Nat.le_refl _, g, by simp, hc, rfl⟩
    · obtain ⟨hk, g', hg, hc, ho⟩ := ih (k0 + 1) h
      refine ⟨by omega, g', ?_, hc, ho⟩
      have : k - k0 = (k - (k0 + 1)) + 1 := by omega
      rw [this, List.getElem?_cons_succ]
      exact hg

/-- A decoded address has a device, whose registration covers it (R112). -/
theorem busDecode_some (reg : List Registration) (a : Addr) (k : Nat) (off : Addr)
    (h : busDecode reg a = some (k, off)) : ∃ g, reg[k]? = some g ∧ g.covers a = true ∧ off = a - g.base := by
  obtain ⟨-, g, hg, hc, ho⟩ := busDecodeFrom_some a 0 reg k off h
  exact ⟨g, by simpa using hg, hc, ho⟩

/-- A valid beat is in the start's page and decodes to a device (R118). -/
theorem beatTarget_eq_some (reg : List Registration) (a start : Addr) (k : Nat) (off : Addr) :
    beatTarget reg a start = some (k, off) ↔ samePage a start = true ∧ busDecode reg a = some (k, off) := by
  simp [beatTarget]

theorem bytesPerBeat_pos (size : SizeField) : 0 < bytesPerBeat size := Nat.two_pow_pos _

theorem windowBytes_pos (size : SizeField) (len : LenField) : 0 < windowBytes size len :=
  Nat.mul_pos (by omega) (bytesPerBeat_pos size)

theorem incrAddr_toNat (base : Addr) (size : SizeField) (beat : Nat) :
    (incrAddr base size beat).toNat = (base.toNat + beat * bytesPerBeat size) % 2 ^ 64 := by
  simp [incrAddr]

theorem wrapAddr_toNat (base : Addr) (size : SizeField) (len : LenField) (beat : Nat) :
    (wrapAddr base size len beat).toNat =
      ((alignedBase base size len).toNat + (beat * bytesPerBeat size) % windowBytes size len) % 2 ^ 64 := by
  simp [wrapAddr]

end Sys2Proof.Machine
end

