-- ==== Sys2Proof/Laws/State.lean ====
section
/-!
SUPPORT. What each named update of the state writes and what it leaves: one lemma per field, true by definition.
-/

namespace Sys2Proof.Machine

/-! ### `driveReadBeat` -/

@[simp] theorem driveReadBeat_params (s : State) (d : Data) (r : Resp) (l : Bool) : (driveReadBeat s d r l).params = s.params := rfl
@[simp] theorem driveReadBeat_registry (s : State) (d : Data) (r : Resp) (l : Bool) : (driveReadBeat s d r l).registry = s.registry := rfl
@[simp] theorem driveReadBeat_R (s : State) (d : Data) (r : Resp) (l : Bool) : (driveReadBeat s d r l).R = s.R := rfl
@[simp] theorem driveReadBeat_W (s : State) (d : Data) (r : Resp) (l : Bool) : (driveReadBeat s d r l).W = s.W := rfl
@[simp] theorem driveReadBeat_M (s : State) (d : Data) (r : Resp) (l : Bool) : (driveReadBeat s d r l).M = s.M := rfl
@[simp] theorem driveReadBeat_inp (s : State) (d : Data) (r : Resp) (l : Bool) : (driveReadBeat s d r l).inp = s.inp := rfl
@[simp] theorem driveReadBeat_script (s : State) (d : Data) (r : Resp) (l : Bool) : (driveReadBeat s d r l).script = s.script := rfl
@[simp] theorem driveReadBeat_draws (s : State) (d : Data) (r : Resp) (l : Bool) : (driveReadBeat s d r l).draws = s.draws := rfl
@[simp] theorem driveReadBeat_out_arready (s : State) (d : Data) (r : Resp) (l : Bool) : (driveReadBeat s d r l).out.arready = false := rfl
@[simp] theorem driveReadBeat_out_rvalid (s : State) (d : Data) (r : Resp) (l : Bool) : (driveReadBeat s d r l).out.rvalid = true := rfl
@[simp] theorem driveReadBeat_out_rid (s : State) (d : Data) (r : Resp) (l : Bool) : (driveReadBeat s d r l).out.rid = s.R.id := rfl
@[simp] theorem driveReadBeat_out_rdata (s : State) (d : Data) (r : Resp) (l : Bool) : (driveReadBeat s d r l).out.rdata = d := rfl
@[simp] theorem driveReadBeat_out_rresp (s : State) (d : Data) (r : Resp) (l : Bool) : (driveReadBeat s d r l).out.rresp = r.code := rfl
@[simp] theorem driveReadBeat_out_rlast (s : State) (d : Data) (r : Resp) (l : Bool) : (driveReadBeat s d r l).out.rlast = l := rfl
@[simp] theorem driveReadBeat_out_awready (s : State) (d : Data) (r : Resp) (l : Bool) : (driveReadBeat s d r l).out.awready = s.out.awready := rfl
@[simp] theorem driveReadBeat_out_wready (s : State) (d : Data) (r : Resp) (l : Bool) : (driveReadBeat s d r l).out.wready = s.out.wready := rfl
@[simp] theorem driveReadBeat_out_bvalid (s : State) (d : Data) (r : Resp) (l : Bool) : (driveReadBeat s d r l).out.bvalid = s.out.bvalid := rfl
@[simp] theorem driveReadBeat_out_bresp (s : State) (d : Data) (r : Resp) (l : Bool) : (driveReadBeat s d r l).out.bresp = s.out.bresp := rfl
@[simp] theorem driveReadBeat_out_bid (s : State) (d : Data) (r : Resp) (l : Bool) : (driveReadBeat s d r l).out.bid = s.out.bid := rfl

/-! ### `driveReadIdle` -/

@[simp] theorem driveReadIdle_params (s : State) : (driveReadIdle s).params = s.params := rfl
@[simp] theorem driveReadIdle_registry (s : State) : (driveReadIdle s).registry = s.registry := rfl
@[simp] theorem driveReadIdle_R (s : State) : (driveReadIdle s).R = s.R := rfl
@[simp] theorem driveReadIdle_W (s : State) : (driveReadIdle s).W = s.W := rfl
@[simp] theorem driveReadIdle_M (s : State) : (driveReadIdle s).M = s.M := rfl
@[simp] theorem driveReadIdle_inp (s : State) : (driveReadIdle s).inp = s.inp := rfl
@[simp] theorem driveReadIdle_script (s : State) : (driveReadIdle s).script = s.script := rfl
@[simp] theorem driveReadIdle_draws (s : State) : (driveReadIdle s).draws = s.draws := rfl
@[simp] theorem driveReadIdle_out_arready (s : State) : (driveReadIdle s).out.arready = true := rfl
@[simp] theorem driveReadIdle_out_rvalid (s : State) : (driveReadIdle s).out.rvalid = false := rfl
@[simp] theorem driveReadIdle_out_awready (s : State) : (driveReadIdle s).out.awready = s.out.awready := rfl
@[simp] theorem driveReadIdle_out_wready (s : State) : (driveReadIdle s).out.wready = s.out.wready := rfl
@[simp] theorem driveReadIdle_out_bvalid (s : State) : (driveReadIdle s).out.bvalid = s.out.bvalid := rfl
@[simp] theorem driveReadIdle_out_bresp (s : State) : (driveReadIdle s).out.bresp = s.out.bresp := rfl
@[simp] theorem driveReadIdle_out_bid (s : State) : (driveReadIdle s).out.bid = s.out.bid := rfl

/-! ### `driveWriteOpen` -/

@[simp] theorem driveWriteOpen_params (s : State) (a w : Bool) : (driveWriteOpen s a w).params = s.params := rfl
@[simp] theorem driveWriteOpen_registry (s : State) (a w : Bool) : (driveWriteOpen s a w).registry = s.registry := rfl
@[simp] theorem driveWriteOpen_R (s : State) (a w : Bool) : (driveWriteOpen s a w).R = s.R := rfl
@[simp] theorem driveWriteOpen_W (s : State) (a w : Bool) : (driveWriteOpen s a w).W = s.W := rfl
@[simp] theorem driveWriteOpen_M (s : State) (a w : Bool) : (driveWriteOpen s a w).M = s.M := rfl
@[simp] theorem driveWriteOpen_inp (s : State) (a w : Bool) : (driveWriteOpen s a w).inp = s.inp := rfl
@[simp] theorem driveWriteOpen_script (s : State) (a w : Bool) : (driveWriteOpen s a w).script = s.script := rfl
@[simp] theorem driveWriteOpen_draws (s : State) (a w : Bool) : (driveWriteOpen s a w).draws = s.draws := rfl
@[simp] theorem driveWriteOpen_out_awready (s : State) (a w : Bool) : (driveWriteOpen s a w).out.awready = a := rfl
@[simp] theorem driveWriteOpen_out_wready (s : State) (a w : Bool) : (driveWriteOpen s a w).out.wready = w := rfl
@[simp] theorem driveWriteOpen_out_bvalid (s : State) (a w : Bool) : (driveWriteOpen s a w).out.bvalid = false := rfl
@[simp] theorem driveWriteOpen_out_arready (s : State) (a w : Bool) : (driveWriteOpen s a w).out.arready = s.out.arready := rfl
@[simp] theorem driveWriteOpen_out_rvalid (s : State) (a w : Bool) : (driveWriteOpen s a w).out.rvalid = s.out.rvalid := rfl
@[simp] theorem driveWriteOpen_out_rlast (s : State) (a w : Bool) : (driveWriteOpen s a w).out.rlast = s.out.rlast := rfl
@[simp] theorem driveWriteOpen_out_rdata (s : State) (a w : Bool) : (driveWriteOpen s a w).out.rdata = s.out.rdata := rfl
@[simp] theorem driveWriteOpen_out_rresp (s : State) (a w : Bool) : (driveWriteOpen s a w).out.rresp = s.out.rresp := rfl
@[simp] theorem driveWriteOpen_out_rid (s : State) (a w : Bool) : (driveWriteOpen s a w).out.rid = s.out.rid := rfl

/-! ### `driveWriteResponse` -/

@[simp] theorem driveWriteResponse_params (s : State) : (driveWriteResponse s).params = s.params := rfl
@[simp] theorem driveWriteResponse_registry (s : State) : (driveWriteResponse s).registry = s.registry := rfl
@[simp] theorem driveWriteResponse_R (s : State) : (driveWriteResponse s).R = s.R := rfl
@[simp] theorem driveWriteResponse_W (s : State) : (driveWriteResponse s).W = s.W := rfl
@[simp] theorem driveWriteResponse_M (s : State) : (driveWriteResponse s).M = s.M := rfl
@[simp] theorem driveWriteResponse_inp (s : State) : (driveWriteResponse s).inp = s.inp := rfl
@[simp] theorem driveWriteResponse_script (s : State) : (driveWriteResponse s).script = s.script := rfl
@[simp] theorem driveWriteResponse_draws (s : State) : (driveWriteResponse s).draws = s.draws := rfl
@[simp] theorem driveWriteResponse_out_awready (s : State) : (driveWriteResponse s).out.awready = false := rfl
@[simp] theorem driveWriteResponse_out_wready (s : State) : (driveWriteResponse s).out.wready = false := rfl
@[simp] theorem driveWriteResponse_out_bvalid (s : State) : (driveWriteResponse s).out.bvalid = true := rfl
@[simp] theorem driveWriteResponse_out_bresp (s : State) : (driveWriteResponse s).out.bresp = s.W.pending.code := rfl
@[simp] theorem driveWriteResponse_out_bid (s : State) : (driveWriteResponse s).out.bid = s.W.id := rfl
@[simp] theorem driveWriteResponse_out_arready (s : State) : (driveWriteResponse s).out.arready = s.out.arready := rfl
@[simp] theorem driveWriteResponse_out_rvalid (s : State) : (driveWriteResponse s).out.rvalid = s.out.rvalid := rfl
@[simp] theorem driveWriteResponse_out_rlast (s : State) : (driveWriteResponse s).out.rlast = s.out.rlast := rfl
@[simp] theorem driveWriteResponse_out_rdata (s : State) : (driveWriteResponse s).out.rdata = s.out.rdata := rfl
@[simp] theorem driveWriteResponse_out_rresp (s : State) : (driveWriteResponse s).out.rresp = s.out.rresp := rfl
@[simp] theorem driveWriteResponse_out_rid (s : State) : (driveWriteResponse s).out.rid = s.out.rid := rfl

/-! ### `readDecodeError` -/

@[simp] theorem readDecodeError_params (s : State) : (readDecodeError s).params = s.params := rfl
@[simp] theorem readDecodeError_registry (s : State) : (readDecodeError s).registry = s.registry := rfl
@[simp] theorem readDecodeError_R (s : State) : (readDecodeError s).R = s.R := rfl
@[simp] theorem readDecodeError_W (s : State) : (readDecodeError s).W = s.W := rfl
@[simp] theorem readDecodeError_M (s : State) : (readDecodeError s).M = s.M := rfl
@[simp] theorem readDecodeError_inp (s : State) : (readDecodeError s).inp = s.inp := rfl
@[simp] theorem readDecodeError_script (s : State) : (readDecodeError s).script = s.script := rfl
@[simp] theorem readDecodeError_draws (s : State) : (readDecodeError s).draws = s.draws := rfl
@[simp] theorem readDecodeError_out_arready (s : State) : (readDecodeError s).out.arready = false := rfl
@[simp] theorem readDecodeError_out_rvalid (s : State) : (readDecodeError s).out.rvalid = true := rfl
@[simp] theorem readDecodeError_out_rid (s : State) : (readDecodeError s).out.rid = s.R.id := rfl
@[simp] theorem readDecodeError_out_rdata (s : State) : (readDecodeError s).out.rdata = 0 := rfl
@[simp] theorem readDecodeError_out_rresp (s : State) : (readDecodeError s).out.rresp = Resp.decerr.code := rfl
@[simp] theorem readDecodeError_out_rlast (s : State) : (readDecodeError s).out.rlast = true := rfl
@[simp] theorem readDecodeError_out_awready (s : State) : (readDecodeError s).out.awready = s.out.awready := rfl
@[simp] theorem readDecodeError_out_wready (s : State) : (readDecodeError s).out.wready = s.out.wready := rfl
@[simp] theorem readDecodeError_out_bvalid (s : State) : (readDecodeError s).out.bvalid = s.out.bvalid := rfl
@[simp] theorem readDecodeError_out_bresp (s : State) : (readDecodeError s).out.bresp = s.out.bresp := rfl
@[simp] theorem readDecodeError_out_bid (s : State) : (readDecodeError s).out.bid = s.out.bid := rfl

/-! ### `writeDecodeError` -/

@[simp] theorem writeDecodeError_params (s : State) : (writeDecodeError s).params = s.params := rfl
@[simp] theorem writeDecodeError_registry (s : State) : (writeDecodeError s).registry = s.registry := rfl
@[simp] theorem writeDecodeError_R (s : State) : (writeDecodeError s).R = s.R := rfl
@[simp] theorem writeDecodeError_M (s : State) : (writeDecodeError s).M = s.M := rfl
@[simp] theorem writeDecodeError_inp (s : State) : (writeDecodeError s).inp = s.inp := rfl
@[simp] theorem writeDecodeError_script (s : State) : (writeDecodeError s).script = s.script := rfl
@[simp] theorem writeDecodeError_out (s : State) : (writeDecodeError s).out = s.out := rfl
@[simp] theorem writeDecodeError_draws (s : State) : (writeDecodeError s).draws = s.draws := rfl
@[simp] theorem writeDecodeError_W (s : State) : (writeDecodeError s).W = { s.W with pending := .decerr, state := .responding } := rfl

/-! ### `acceptRead` -/

@[simp] theorem acceptRead_params (q : Request) (s : State) : (acceptRead q s).params = s.params := rfl
@[simp] theorem acceptRead_registry (q : Request) (s : State) : (acceptRead q s).registry = s.registry := rfl
@[simp] theorem acceptRead_W (q : Request) (s : State) : (acceptRead q s).W = s.W := rfl
@[simp] theorem acceptRead_M (q : Request) (s : State) : (acceptRead q s).M = s.M := rfl
@[simp] theorem acceptRead_inp (q : Request) (s : State) : (acceptRead q s).inp = s.inp := rfl
@[simp] theorem acceptRead_script (q : Request) (s : State) : (acceptRead q s).script = s.script := rfl
@[simp] theorem acceptRead_draws (q : Request) (s : State) : (acceptRead q s).draws = s.draws := rfl
@[simp] theorem acceptRead_R_state (q : Request) (s : State) : (acceptRead q s).R.state = .sending := rfl
@[simp] theorem acceptRead_R_beat (q : Request) (s : State) : (acceptRead q s).R.beat = 0 := rfl
@[simp] theorem acceptRead_R_cache (q : Request) (s : State) : (acceptRead q s).R.cache = s.R.cache := rfl
@[simp] theorem acceptRead_R_addr (q : Request) (s : State) : (acceptRead q s).R.addr = s.inp.araddr := rfl
@[simp] theorem acceptRead_R_size (q : Request) (s : State) : (acceptRead q s).R.size = q.size := rfl
@[simp] theorem acceptRead_R_burst (q : Request) (s : State) : (acceptRead q s).R.burst = q.burst := rfl
@[simp] theorem acceptRead_R_id (q : Request) (s : State) : (acceptRead q s).R.id = s.params.fitId s.inp.arid := rfl
@[simp] theorem acceptRead_R_len (q : Request) (s : State) : (acceptRead q s).R.len = q.len := rfl
@[simp] theorem acceptRead_R_lock (q : Request) (s : State) : (acceptRead q s).R.lock = q.lock := rfl
@[simp] theorem acceptRead_out_arready (q : Request) (s : State) : (acceptRead q s).out.arready = true := rfl
@[simp] theorem acceptRead_out_rvalid (q : Request) (s : State) : (acceptRead q s).out.rvalid = false := rfl
@[simp] theorem acceptRead_out_awready (q : Request) (s : State) : (acceptRead q s).out.awready = s.out.awready := rfl
@[simp] theorem acceptRead_out_wready (q : Request) (s : State) : (acceptRead q s).out.wready = s.out.wready := rfl
@[simp] theorem acceptRead_out_bvalid (q : Request) (s : State) : (acceptRead q s).out.bvalid = s.out.bvalid := rfl
@[simp] theorem acceptRead_out_bresp (q : Request) (s : State) : (acceptRead q s).out.bresp = s.out.bresp := rfl
@[simp] theorem acceptRead_out_bid (q : Request) (s : State) : (acceptRead q s).out.bid = s.out.bid := rfl

/-! ### `acknowledgeReadBeat` -/

@[simp] theorem acknowledgeReadBeat_params (q : Request) (a : Addr) (v : Bool) (s : State) : (acknowledgeReadBeat q a v s).params = s.params := rfl
@[simp] theorem acknowledgeReadBeat_registry (q : Request) (a : Addr) (v : Bool) (s : State) : (acknowledgeReadBeat q a v s).registry = s.registry := rfl
@[simp] theorem acknowledgeReadBeat_W (q : Request) (a : Addr) (v : Bool) (s : State) : (acknowledgeReadBeat q a v s).W = s.W := rfl
@[simp] theorem acknowledgeReadBeat_inp (q : Request) (a : Addr) (v : Bool) (s : State) : (acknowledgeReadBeat q a v s).inp = s.inp := rfl
@[simp] theorem acknowledgeReadBeat_script (q : Request) (a : Addr) (v : Bool) (s : State) : (acknowledgeReadBeat q a v s).script = s.script := rfl
@[simp] theorem acknowledgeReadBeat_out (q : Request) (a : Addr) (v : Bool) (s : State) : (acknowledgeReadBeat q a v s).out = s.out := rfl
@[simp] theorem acknowledgeReadBeat_draws (q : Request) (a : Addr) (v : Bool) (s : State) : (acknowledgeReadBeat q a v s).draws = s.draws := rfl

/-! ### `acceptWrite` -/

@[simp] theorem acceptWrite_params (q : Request) (s : State) : (acceptWrite q s).params = s.params := rfl
@[simp] theorem acceptWrite_registry (q : Request) (s : State) : (acceptWrite q s).registry = s.registry := rfl
@[simp] theorem acceptWrite_R (q : Request) (s : State) : (acceptWrite q s).R = s.R := rfl
@[simp] theorem acceptWrite_M (q : Request) (s : State) : (acceptWrite q s).M = s.M := rfl
@[simp] theorem acceptWrite_inp (q : Request) (s : State) : (acceptWrite q s).inp = s.inp := rfl
@[simp] theorem acceptWrite_script (q : Request) (s : State) : (acceptWrite q s).script = s.script := rfl
@[simp] theorem acceptWrite_draws (q : Request) (s : State) : (acceptWrite q s).draws = s.draws := rfl
@[simp] theorem acceptWrite_W_state (q : Request) (s : State) : (acceptWrite q s).W.state = .acceptingData := rfl
@[simp] theorem acceptWrite_W_beat (q : Request) (s : State) : (acceptWrite q s).W.beat = 0 := rfl
@[simp] theorem acceptWrite_W_addr (q : Request) (s : State) : (acceptWrite q s).W.addr = s.inp.awaddr := rfl
@[simp] theorem acceptWrite_W_size (q : Request) (s : State) : (acceptWrite q s).W.size = q.size := rfl
@[simp] theorem acceptWrite_W_burst (q : Request) (s : State) : (acceptWrite q s).W.burst = q.burst := rfl
@[simp] theorem acceptWrite_W_id (q : Request) (s : State) : (acceptWrite q s).W.id = s.params.fitId s.inp.awid := rfl
@[simp] theorem acceptWrite_W_len (q : Request) (s : State) : (acceptWrite q s).W.len = q.len := rfl
@[simp] theorem acceptWrite_W_lock (q : Request) (s : State) : (acceptWrite q s).W.lock = q.lock := rfl
@[simp] theorem acceptWrite_W_pending (q : Request) (s : State) : (acceptWrite q s).W.pending = s.W.pending := rfl
@[simp] theorem acceptWrite_out_awready (q : Request) (s : State) : (acceptWrite q s).out.awready = true := rfl
@[simp] theorem acceptWrite_out_wready (q : Request) (s : State) : (acceptWrite q s).out.wready = false := rfl
@[simp] theorem acceptWrite_out_bvalid (q : Request) (s : State) : (acceptWrite q s).out.bvalid = false := rfl
@[simp] theorem acceptWrite_out_arready (q : Request) (s : State) : (acceptWrite q s).out.arready = s.out.arready := rfl
@[simp] theorem acceptWrite_out_rvalid (q : Request) (s : State) : (acceptWrite q s).out.rvalid = s.out.rvalid := rfl
@[simp] theorem acceptWrite_out_rlast (q : Request) (s : State) : (acceptWrite q s).out.rlast = s.out.rlast := rfl
@[simp] theorem acceptWrite_out_rdata (q : Request) (s : State) : (acceptWrite q s).out.rdata = s.out.rdata := rfl
@[simp] theorem acceptWrite_out_rresp (q : Request) (s : State) : (acceptWrite q s).out.rresp = s.out.rresp := rfl
@[simp] theorem acceptWrite_out_rid (q : Request) (s : State) : (acceptWrite q s).out.rid = s.out.rid := rfl

/-! ### `takeWriteBeat` -/

@[simp] theorem takeWriteBeat_params (q : Request) (a : Addr) (k : Nat) (off : Addr) (s : State) : (takeWriteBeat q a k off s).params = s.params := rfl
@[simp] theorem takeWriteBeat_R (q : Request) (a : Addr) (k : Nat) (off : Addr) (s : State) : (takeWriteBeat q a k off s).R = s.R := rfl
@[simp] theorem takeWriteBeat_inp (q : Request) (a : Addr) (k : Nat) (off : Addr) (s : State) : (takeWriteBeat q a k off s).inp = s.inp := rfl
@[simp] theorem takeWriteBeat_script (q : Request) (a : Addr) (k : Nat) (off : Addr) (s : State) : (takeWriteBeat q a k off s).script = s.script := rfl
@[simp] theorem takeWriteBeat_out (q : Request) (a : Addr) (k : Nat) (off : Addr) (s : State) : (takeWriteBeat q a k off s).out = s.out := rfl
@[simp] theorem takeWriteBeat_draws (q : Request) (a : Addr) (k : Nat) (off : Addr) (s : State) : (takeWriteBeat q a k off s).draws = s.draws := rfl
@[simp] theorem takeWriteBeat_M (q : Request) (a : Addr) (k : Nat) (off : Addr) (s : State) : (takeWriteBeat q a k off s).M = s.M.invalidateConflicting a q.size := rfl

/-! ### `beginEdge` -/

@[simp] theorem beginEdge_params (s : State) : (beginEdge s).params = s.params := rfl
@[simp] theorem beginEdge_R (s : State) : (beginEdge s).R = s.R := rfl
@[simp] theorem beginEdge_W (s : State) : (beginEdge s).W = s.W := rfl
@[simp] theorem beginEdge_M (s : State) : (beginEdge s).M = s.M := rfl
@[simp] theorem beginEdge_inp (s : State) : (beginEdge s).inp = s.inp := rfl
@[simp] theorem beginEdge_script (s : State) : (beginEdge s).script = s.script := rfl
@[simp] theorem beginEdge_out (s : State) : (beginEdge s).out = s.out := rfl
@[simp] theorem beginEdge_draws (s : State) : (beginEdge s).draws = s.draws := rfl
@[simp] theorem beginEdge_registry (s : State) : (beginEdge s).registry = stepDevices s.draws s.params.stepFirst s.registry := rfl

/-! ### `endEdge` -/

@[simp] theorem endEdge_params (s : State) : (endEdge s).params = s.params := rfl
@[simp] theorem endEdge_registry (s : State) : (endEdge s).registry = s.registry := rfl
@[simp] theorem endEdge_R (s : State) : (endEdge s).R = s.R := rfl
@[simp] theorem endEdge_W (s : State) : (endEdge s).W = s.W := rfl
@[simp] theorem endEdge_M (s : State) : (endEdge s).M = s.M := rfl
@[simp] theorem endEdge_out (s : State) : (endEdge s).out = s.out := rfl
@[simp] theorem endEdge_inp (s : State) : (endEdge s).inp = s.script.headD .quiet := rfl
@[simp] theorem endEdge_script (s : State) : (endEdge s).script = s.script.tail := rfl
@[simp] theorem endEdge_draws (s : State) : (endEdge s).draws = s.draws + 1 := rfl

/-! ### `presentReadBeat` -/

@[simp] theorem presentReadBeat_params (q : Request) (k : Nat) (off : Addr) (s : State) :
    (presentReadBeat q k off s).params = s.params := by
  unfold presentReadBeat
  split <;> rfl

@[simp] theorem presentReadBeat_W (q : Request) (k : Nat) (off : Addr) (s : State) :
    (presentReadBeat q k off s).W = s.W := by
  unfold presentReadBeat
  split <;> rfl

@[simp] theorem presentReadBeat_M (q : Request) (k : Nat) (off : Addr) (s : State) :
    (presentReadBeat q k off s).M = s.M := by
  unfold presentReadBeat
  split <;> rfl

@[simp] theorem presentReadBeat_inp (q : Request) (k : Nat) (off : Addr) (s : State) :
    (presentReadBeat q k off s).inp = s.inp := by
  unfold presentReadBeat
  split <;> rfl

@[simp] theorem presentReadBeat_script (q : Request) (k : Nat) (off : Addr) (s : State) :
    (presentReadBeat q k off s).script = s.script := by
  unfold presentReadBeat
  split <;> rfl

@[simp] theorem presentReadBeat_draws (q : Request) (k : Nat) (off : Addr) (s : State) :
    (presentReadBeat q k off s).draws = s.draws := by
  unfold presentReadBeat
  split <;> rfl

/-- Where a value is cached, presenting the beat only drives the wires. -/
theorem presentReadBeat_cached (q : Request) (k : Nat) (off : Addr) (s : State) (v : Data) (h : s.R.cache = some v) :
    presentReadBeat q k off s =
      driveReadBeat s v (readBeatResp q.lock) (readBeatLast s.R.beat q.len) := by
  simp [presentReadBeat, h]

/-- Where no value is cached, presenting the beat reads the device once and keeps the value. -/
theorem presentReadBeat_absent (q : Request) (k : Nat) (off : Addr) (s : State) (h : s.R.cache = none) :
    presentReadBeat q k off s =
      driveReadBeat
        { s with
          registry := (readDevice s.registry k off q.size).2
          R := { s.R with cache := some (readDevice s.registry k off q.size).1 } }
        (readDevice s.registry k off q.size).1 (readBeatResp q.lock) (readBeatLast s.R.beat q.len) := by
  simp [presentReadBeat, h]

end Sys2Proof.Machine
end

