-- ==== Sys2Proof/Laws/Engines.lean ====
section
/-!
SUPPORT. What an evaluation of an engine can do, said once: each meaning is one evaluation of its engine for the request's own
fields, each evaluation is one of the cases below, and a step is the two evaluations between the edge's two ends.
-/

namespace Sys2Proof.Machine

open Sys2Proof.Safety

/-! ## Meanings -/

/-- Every meaning of a read request is an evaluation of the read engine for the request's fields. -/
theorem exec_read (i : Instr) (s : State) (h : i.request.dir = false) : exec i s = .next (evalRead i.request s) := by
  cases i <;> first | rfl | cases h

/-- Every meaning of a write request is an evaluation of the write engine for the request's fields. -/
theorem exec_write (i : Instr) (s : State) (h : i.request.dir = true) : exec i s = .next (evalWrite i.request s) := by
  cases i <;> first | rfl | cases h

/-! ## Responses -/

/-- The response of a read beat as it stands on the wires (R185). -/
theorem readBeatResp_code (lock : Bool) : (readBeatResp lock).code = if lock then 0b01#2 else 0b00#2 := by
  cases lock <;> rfl

/-- The response of a valid data beat is OKAY, or EXOKAY for a locked one (R214). -/
theorem writeBeatResp_legal (lock hit : Bool) :
    writeBeatResp lock hit ≠ .slverr ∧ (writeBeatResp lock hit = .exokay → lock = true) := by
  cases lock <;> cases hit <;> decide

/-! ## The read engine -/

theorem evalRead_idle (q : Request) (s : State) (h : s.R.state = .idle) : evalRead q s = acceptRead q s := by
  simp [evalRead, h]

theorem evalRead_sending (q : Request) (s : State) (h : s.R.state = .sending) : evalRead q s = sendRead q s := by
  simp [evalRead, h]

/-- A valid beat, handshaked. -/
theorem sendRead_valid_ready (q : Request) (s : State) (k : Nat) (off : Addr) (ht : readBeatTarget q s = some (k, off))
    (hr : s.inp.rready = true) :
    sendRead q s = acknowledgeReadBeat q (readBeatAddr q s) true (presentReadBeat q k off s) := by
  simp [sendRead, ht, hr]

/-- A valid beat, stalled. -/
theorem sendRead_valid_stalled (q : Request) (s : State) (k : Nat) (off : Addr)
    (ht : readBeatTarget q s = some (k, off)) (hr : s.inp.rready = false) :
    sendRead q s = presentReadBeat q k off s := by
  simp [sendRead, ht, hr]

/-- An invalid beat, handshaked. -/
theorem sendRead_invalid_ready (q : Request) (s : State) (ht : readBeatTarget q s = none) (hr : s.inp.rready = true) :
    sendRead q s = acknowledgeReadBeat q (readBeatAddr q s) false (readDecodeError s) := by
  simp [sendRead, ht, hr]

/-- An invalid beat, stalled. -/
theorem sendRead_invalid_stalled (q : Request) (s : State) (ht : readBeatTarget q s = none)
    (hr : s.inp.rready = false) : sendRead q s = readDecodeError s := by
  simp [sendRead, ht, hr]

/-- The registry after a beat is presented: as before, or after one device read. -/
theorem presentReadBeat_registry (q : Request) (k : Nat) (off : Addr) (s : State) :
    (presentReadBeat q k off s).registry = s.registry ∨
      (presentReadBeat q k off s).registry = (readDevice s.registry k off q.size).2 := by
  unfold presentReadBeat
  split
  · exact .inl rfl
  · exact .inr rfl

/-- What a read evaluation leaves alone. -/
theorem evalRead_frame (q : Request) (s : State) :
    (evalRead q s).params = s.params ∧ (evalRead q s).W = s.W ∧ (evalRead q s).inp = s.inp ∧
      (evalRead q s).script = s.script ∧ (evalRead q s).draws = s.draws := by
  unfold evalRead sendRead
  cases s.R.state with
  | idle => exact ⟨rfl, rfl, rfl, rfl, rfl⟩
  | sending => cases readBeatTarget q s <;> cases s.inp.rready <;> simp

/-- The registry after a read evaluation: as before, or after one device read of the beat's target. -/
theorem evalRead_registry (q : Request) (s : State) :
    (evalRead q s).registry = s.registry ∨
      ∃ k off, readBeatTarget q s = some (k, off) ∧
        (evalRead q s).registry = (readDevice s.registry k off q.size).2 := by
  unfold evalRead sendRead
  cases s.R.state with
  | idle => exact .inl rfl
  | sending =>
    cases ht : readBeatTarget q s with
    | none => cases s.inp.rready <;> exact .inl rfl
    | some p =>
      rcases presentReadBeat_registry q p.1 p.2 s with h | h <;> cases s.inp.rready
      · exact .inl h
      · exact .inl h
      · exact .inr ⟨p.1, p.2, rfl, h⟩
      · exact .inr ⟨p.1, p.2, rfl, h⟩

/-! ## The write engine -/

theorem evalWrite_idle (q : Request) (s : State) (h : s.W.state = .idle) : evalWrite q s = acceptWrite q s := by
  simp [evalWrite, h]

theorem evalWrite_accepting (q : Request) (s : State) (h : s.W.state = .acceptingData) :
    evalWrite q s = acceptWriteData q s := by
  simp [evalWrite, h]

theorem evalWrite_responding (q : Request) (s : State) (h : s.W.state = .responding) :
    evalWrite q s = respondWrite s := by
  simp [evalWrite, h]

/-- A valid data beat. -/
theorem acceptWriteData_valid (q : Request) (s : State) (k : Nat) (off : Addr)
    (ht : writeBeatTarget q s = some (k, off)) (hv : s.inp.wvalid = true) :
    acceptWriteData q s = takeWriteBeat q (writeBeatAddr q s) k off (driveWriteOpen s false true) := by
  simp [acceptWriteData, ht, hv]

/-- An invalid data beat. -/
theorem acceptWriteData_invalid (q : Request) (s : State) (ht : writeBeatTarget q s = none)
    (hv : s.inp.wvalid = true) : acceptWriteData q s = writeDecodeError (driveWriteOpen s false true) := by
  simp [acceptWriteData, ht, hv]

/-- No data beat. -/
theorem acceptWriteData_none (q : Request) (s : State) (hv : s.inp.wvalid = false) :
    acceptWriteData q s = driveWriteOpen s false true := by
  simp [acceptWriteData, hv]

/-- What a write evaluation leaves alone. -/
theorem evalWrite_frame (q : Request) (s : State) :
    (evalWrite q s).params = s.params ∧ (evalWrite q s).R = s.R ∧ (evalWrite q s).inp = s.inp ∧
      (evalWrite q s).script = s.script ∧ (evalWrite q s).draws = s.draws := by
  unfold evalWrite acceptWriteData respondWrite
  cases s.W.state with
  | idle => exact ⟨rfl, rfl, rfl, rfl, rfl⟩
  | acceptingData => cases writeBeatTarget q s <;> cases s.inp.wvalid <;> simp
  | responding => cases s.inp.bready <;> simp

/-- The registry after a write evaluation: as before, or after one device write of the beat's target. -/
theorem evalWrite_registry (q : Request) (s : State) :
    (evalWrite q s).registry = s.registry ∨
      ∃ k off, writeBeatTarget q s = some (k, off) ∧
        (evalWrite q s).registry = writeDevice s.registry k off s.inp.wdata q.size s.inp.wstrb := by
  unfold evalWrite acceptWriteData respondWrite
  cases s.W.state with
  | idle => exact .inl rfl
  | responding => cases s.inp.bready <;> exact .inl rfl
  | acceptingData =>
    cases s.inp.wvalid with
    | false => exact .inl rfl
    | true =>
      cases ht : writeBeatTarget q s with
      | none => exact .inl rfl
      | some p =>
        simp only [if_true, takeWriteBeat]
        split
        · exact .inr ⟨p.1, p.2, rfl, rfl⟩
        · exact .inl rfl

/-! ## A step -/

/-- `ReadEval`, in one piece. -/
def readPart (s : State) : State :=
  match s.R.state with
  | .idle => if s.inp.arvalid then acceptRead (readOffered s.inp) s else driveReadIdle s
  | .sending => sendRead (readLatched s.R) s

/-- `WriteEval`, in one piece. -/
def writePart (s : State) : State :=
  match s.W.state with
  | .idle => if s.inp.awvalid then acceptWrite (writeOffered s.inp) s else driveWriteOpen s true false
  | .acceptingData => acceptWriteData (writeLatched s.W) s
  | .responding => respondWrite s

/-- Executing what the read engine fetches is its evaluation. -/
theorem runRead_eq (s : State) : runRead s = .next (readPart s) := by
  have hd : ∀ l b z n, (decodeDescriptor (packDescriptor false l b z n)).request = ⟨false, l, b, z, n⟩ :=
    fun l b z n => decodeDescriptor_pack_request false l b z n
  unfold runRead fetchRead readPart
  cases h : s.R.state with
  | idle =>
    cases s.inp.arvalid with
    | false => rfl
    | true =>
      simp only [if_true, arDescriptor]
      rw [exec_read _ _ (by rw [hd]), hd, evalRead_idle _ _ h]
      rfl
  | sending =>
    simp only [ReadReg.descriptor]
    rw [exec_read _ _ (by rw [hd]), hd, evalRead_sending _ _ h]
    rfl

/-- Executing what the write engine fetches is its evaluation. -/
theorem runWrite_eq (s : State) : runWrite s = .next (writePart s) := by
  have hd : ∀ l b z n, (decodeDescriptor (packDescriptor true l b z n)).request = ⟨true, l, b, z, n⟩ :=
    fun l b z n => decodeDescriptor_pack_request true l b z n
  unfold runWrite fetchWrite writePart
  cases h : s.W.state with
  | idle =>
    cases s.inp.awvalid with
    | false => rfl
    | true =>
      simp only [if_true, awDescriptor]
      rw [exec_write _ _ (by rw [hd]), hd, evalWrite_idle _ _ h]
      rfl
  | acceptingData =>
    simp only [WriteReg.descriptor]
    rw [exec_write _ _ (by rw [hd]), hd, evalWrite_accepting _ _ h]
    rfl
  | responding =>
    simp only [WriteReg.descriptor]
    rw [exec_write _ _ (by rw [hd]), hd, evalWrite_responding _ _ h]

/-- What one step does: the device steps, the two evaluations, and the wires of the next edge (R240). -/
theorem step_eq (s : State) : step s = .next (endEdge (writePart (readPart (beginEdge s)))) := by
  simp only [step, runRead_eq, runWrite_eq, thenDo]

end Sys2Proof.Machine
end

