-- ==== Sys2Proof/Laws/Edge.lean ====
section
/-!
SUPPORT. What the two evaluations of an edge can do, said once: what each leaves alone, what each does to the monitor, and a
run as one edge after another.
-/

namespace Sys2Proof.Machine

open Sys2Proof.Safety

/-! ## Frames -/

/-- What the read engine's part of an edge leaves alone. -/
theorem readPart_frame (s : State) :
    (readPart s).params = s.params ∧ (readPart s).W = s.W ∧ (readPart s).inp = s.inp ∧
      (readPart s).script = s.script ∧ (readPart s).draws = s.draws := by
  unfold readPart
  cases hs : s.R.state with
  | idle => cases s.inp.arvalid <;> exact ⟨rfl, rfl, rfl, rfl, rfl⟩
  | sending =>
    rw [← evalRead_sending _ _ hs]
    exact evalRead_frame _ _

/-- What the write engine's part of an edge leaves alone. -/
theorem writePart_frame (s : State) :
    (writePart s).params = s.params ∧ (writePart s).R = s.R ∧ (writePart s).inp = s.inp ∧
      (writePart s).script = s.script ∧ (writePart s).draws = s.draws := by
  unfold writePart
  cases hs : s.W.state with
  | idle => cases s.inp.awvalid <;> exact ⟨rfl, rfl, rfl, rfl, rfl⟩
  | acceptingData =>
    rw [← evalWrite_accepting _ _ hs]
    exact evalWrite_frame _ _
  | responding =>
    unfold respondWrite
    cases s.inp.bready <;> exact ⟨rfl, rfl, rfl, rfl, rfl⟩

/-! ## The registry -/

/-- The device steps keep bases and lengths. -/
theorem beginEdge_ranges (s : State) : registryRanges (beginEdge s).registry = registryRanges s.registry :=
  registryRanges_stepDevices _ _ _

/-- The read engine's part keeps bases and lengths. -/
theorem readPart_ranges (s : State) : registryRanges (readPart s).registry = registryRanges s.registry := by
  unfold readPart
  cases hs : s.R.state with
  | idle => cases s.inp.arvalid <;> rfl
  | sending =>
    rw [← evalRead_sending _ _ hs]
    rcases evalRead_registry (readLatched s.R) s with h | ⟨k, off, -, h⟩ <;> simp only [h]
    exact registryRanges_readDevice _ _ _ _

/-- The write engine's part keeps bases and lengths. -/
theorem writePart_ranges (s : State) : registryRanges (writePart s).registry = registryRanges s.registry := by
  unfold writePart
  cases hs : s.W.state with
  | idle => cases s.inp.awvalid <;> rfl
  | acceptingData =>
    rw [← evalWrite_accepting _ _ hs]
    rcases evalWrite_registry (writeLatched s.W) s with h | ⟨k, off, -, h⟩ <;> simp only [h]
    exact registryRanges_writeDevice _ _ _ _ _ _
  | responding =>
    unfold respondWrite
    cases s.inp.bready <;> rfl

/-- The read engine's part keeps the storage's canonical form. -/
theorem readPart_registryWf (s : State) (h : registryWf s.registry) : registryWf (readPart s).registry := by
  unfold readPart
  cases hs : s.R.state with
  | idle => cases s.inp.arvalid <;> exact h
  | sending =>
    rw [← evalRead_sending _ _ hs]
    rcases evalRead_registry (readLatched s.R) s with hr | ⟨k, off, -, hr⟩ <;> simp only [hr]
    · exact h
    · exact registryWf_readDevice _ _ _ _ h

/-- The write engine's part keeps the storage's canonical form. -/
theorem writePart_registryWf (s : State) (h : registryWf s.registry) : registryWf (writePart s).registry := by
  unfold writePart
  cases hs : s.W.state with
  | idle => cases s.inp.awvalid <;> exact h
  | acceptingData =>
    rw [← evalWrite_accepting _ _ hs]
    rcases evalWrite_registry (writeLatched s.W) s with hr | ⟨k, off, -, hr⟩ <;> simp only [hr]
    · exact h
    · exact registryWf_writeDevice _ _ _ _ _ _ h
  | responding =>
    unfold respondWrite
    cases s.inp.bready <;> exact h

/-- A beat's device and offset are the same in states with the same bases, lengths and parameters. -/
theorem beatDevice_of_ranges (s t : State) (q : Request) (start : Addr) (beat : Nat)
    (hr : registryRanges t.registry = registryRanges s.registry) (hp : t.params = s.params) :
    beatDevice t q start beat = beatDevice s q start beat := by
  simp only [beatDevice, hp, beatTarget_of_ranges hr]

/-! ## The read register -/

/-- Presenting a beat changes nothing of the register but the cache. -/
theorem presentReadBeat_R (q : Request) (k : Nat) (off : Addr) (s : State) :
    ∃ c, (presentReadBeat q k off s).R = { s.R with cache := c } := by
  cases hc : s.R.cache with
  | none => exact ⟨_, by rw [presentReadBeat_absent q k off s hc]; rfl⟩
  | some v =>
    refine ⟨s.R.cache, ?_⟩
    rw [presentReadBeat_cached q k off s v hc]
    rfl

/-- What a `SENDING` evaluation does to the read register: a stalled beat changes the cache alone; a handshaked beat clears it
and either ends the burst or, where the beat is valid and not the last, advances `beat` (R188, R189). -/
theorem sendRead_R (q : Request) (s : State) :
    (s.inp.rready = false ∧ ∃ c, (sendRead q s).R = { s.R with cache := c }) ∨
      (s.inp.rready = true ∧ (readBeatTarget q s = none ∨ s.R.beat = q.len.toNat) ∧
        (sendRead q s).R = { s.R with cache := none, state := .idle }) ∨
      (s.inp.rready = true ∧ (readBeatTarget q s).isSome = true ∧ s.R.beat ≠ q.len.toNat ∧
        (sendRead q s).R = { s.R with cache := none, beat := s.R.beat + 1 }) := by
  cases hr : s.inp.rready with
  | false =>
    left
    refine ⟨rfl, ?_⟩
    cases ht : readBeatTarget q s with
    | none =>
      refine ⟨s.R.cache, ?_⟩
      rw [sendRead_invalid_stalled q s ht hr]
      rfl
    | some p =>
      rw [sendRead_valid_stalled q s p.1 p.2 ht hr]
      exact presentReadBeat_R q p.1 p.2 s
  | true =>
    right
    cases ht : readBeatTarget q s with
    | none =>
      left
      rw [sendRead_invalid_ready q s ht hr]
      exact ⟨rfl, .inl rfl, rfl⟩
    | some p =>
      rw [sendRead_valid_ready q s p.1 p.2 ht hr]
      obtain ⟨c, hc⟩ := presentReadBeat_R q p.1 p.2 s
      simp only [acknowledgeReadBeat, hc]
      by_cases hb : s.R.beat = q.len.toNat
      · exact .inl ⟨trivial, .inr hb, by simp [hb]⟩
      · exact .inr ⟨trivial, rfl, hb, by simp [hb]⟩

/-! ## The monitor -/

/-- The read engine's part leaves the monitor, or reserves for the handshaked beat of a locked read (R155, R190). -/
theorem readPart_M (s : State) :
    (readPart s).M = s.M ∨
      (s.R.state = .sending ∧ s.inp.rready = true ∧ s.R.lock = true ∧
        ((beatDevice s (readLatched s.R) s.R.addr s.R.beat).isSome = true ∨ s.params.reserveOnDecErr = true) ∧
        (readPart s).M = s.M.reserve (beatAddr s.params (readLatched s.R) s.R.addr s.R.beat) s.R.size) := by
  by_cases hc : s.R.state = .sending ∧ s.inp.rready = true ∧ s.R.lock = true ∧
      ((beatDevice s (readLatched s.R) s.R.addr s.R.beat).isSome = true ∨ s.params.reserveOnDecErr = true)
  · right
    obtain ⟨hs, hr, hl, hd⟩ := hc
    refine ⟨hs, hr, hl, hd, ?_⟩
    have hd' : (readBeatTarget (readLatched s.R) s).isSome = true ∨ s.params.reserveOnDecErr = true := hd
    simp only [readPart, hs, sendRead, hr, if_true, acknowledgeReadBeat]
    cases ht : readBeatTarget (readLatched s.R) s with
    | none =>
      have hd2 : s.params.reserveOnDecErr = true := by simpa [ht] using hd'
      simp only [readLatched, hl, hd2, readDecodeError_params, readDecodeError_M]
      rfl
    | some p =>
      simp only [readLatched, hl, presentReadBeat_M]
      rfl
  · left
    unfold readPart
    cases hs : s.R.state with
    | idle => cases s.inp.arvalid <;> rfl
    | sending =>
      simp only [sendRead]
      cases hr : s.inp.rready with
      | false => cases readBeatTarget (readLatched s.R) s <;> simp
      | true =>
        have hd : s.R.lock = true → (readBeatTarget (readLatched s.R) s).isSome = false ∧
            s.params.reserveOnDecErr = false := by
          intro hl
          have : ¬((readBeatTarget (readLatched s.R) s).isSome = true ∨ s.params.reserveOnDecErr = true) :=
            fun h => hc ⟨hs, hr, hl, h⟩
          simpa [not_or] using this
        simp only [if_true, acknowledgeReadBeat]
        cases hl : s.R.lock with
        | false => cases readBeatTarget (readLatched s.R) s <;> simp [readLatched, hl]
        | true =>
          obtain ⟨h1, h2⟩ := hd hl
          cases ht : readBeatTarget (readLatched s.R) s with
          | none => simp [h2]
          | some p => simp [ht] at h1

/-- The write engine's part changes the monitor and the pending response only at a data beat: a decode error leaves the monitor
and sets DECERR; a valid beat reads the match, clears what it meets, and sets the response (R214, R215). -/
theorem writePart_cases (s : State) :
    (¬(s.W.state = .acceptingData ∧ s.inp.wvalid = true) ∧ (writePart s).W.pending = s.W.pending ∧
        (writePart s).M = s.M) ∨
      (s.W.state = .acceptingData ∧ s.inp.wvalid = true ∧
        beatDevice s (writeLatched s.W) s.W.addr s.W.beat = none ∧ (writePart s).M = s.M ∧
        (writePart s).W.pending = .decerr) ∨
      (s.W.state = .acceptingData ∧ s.inp.wvalid = true ∧
        ∃ p, beatDevice s (writeLatched s.W) s.W.addr s.W.beat = some p ∧
          (writePart s).M =
            s.M.invalidateConflicting (beatAddr s.params (writeLatched s.W) s.W.addr s.W.beat) s.W.size ∧
          (writePart s).W.pending =
            writeBeatResp s.W.lock (s.M.hit (beatAddr s.params (writeLatched s.W) s.W.addr s.W.beat))) := by
  unfold writePart
  cases hs : s.W.state with
  | idle => left; cases s.inp.awvalid <;> exact ⟨by simp, rfl, rfl⟩
  | responding => left; unfold respondWrite; cases s.inp.bready <;> exact ⟨by simp, rfl, rfl⟩
  | acceptingData =>
    cases hv : s.inp.wvalid with
    | false =>
      left
      simp only [acceptWriteData_none _ _ hv]
      exact ⟨by simp, rfl, rfl⟩
    | true =>
      right
      cases ht : writeBeatTarget (writeLatched s.W) s with
      | none =>
        left
        simp only [acceptWriteData_invalid _ _ ht hv]
        exact ⟨trivial, trivial, ht, rfl, rfl⟩
      | some p =>
        right
        simp only [acceptWriteData_valid _ _ p.1 p.2 ht hv]
        refine ⟨trivial, trivial, p, ht, rfl, ?_⟩
        simp only [takeWriteBeat]
        split <;> rfl

/-! ## Runs -/

theorem run_zero (s : State) : Host.Core.run Sys2Proof.core 0 s = .next s := rfl

/-- A run is one edge and then the rest. -/
theorem run_succ (n : Nat) (s : State) :
    Host.Core.run Sys2Proof.core (n + 1) s =
      Host.Core.run Sys2Proof.core n (endEdge (writePart (readPart (beginEdge s)))) := by
  have h : Sys2Proof.core.step s = .next (endEdge (writePart (readPart (beginEdge s)))) := step_eq s
  simp only [Host.Core.run, h]

end Sys2Proof.Machine
end

