-- ==== Sys2Proof/Laws/PerInstr.lean ====
section
/-!
SUPPORT. Statements about every request kind as syntax, one lemma per constructor.
-/

namespace Sys2Proof.Laws

/-- Bits 15:12 of a request's descriptor, as spec/opcode_table.json gives them. -/
def Encoding.kindBits : Instr → BitVec 4
  | .rdFixed _ _ => 0x0#4
  | .rdIncr _ _ => 0x1#4
  | .rdWrap _ _ => 0x2#4
  | .rdBadburst _ _ => 0x3#4
  | .rdxFixed _ _ => 0x4#4
  | .rdxIncr _ _ => 0x5#4
  | .rdxWrap _ _ => 0x6#4
  | .rdxBadburst _ _ => 0x7#4
  | .wrFixed _ _ => 0x8#4
  | .wrIncr _ _ => 0x9#4
  | .wrWrap _ _ => 0xA#4
  | .wrBadburst _ _ => 0xB#4
  | .wrxFixed _ _ => 0xC#4
  | .wrxIncr _ _ => 0xD#4
  | .wrxWrap _ _ => 0xE#4
  | .wrxBadburst _ _ => 0xF#4

/-- A request's descriptor is its kind's four bits, a zero, its `size` and its `len` (30_encoding.md R89). -/
def Encoding.Statement (i : Instr) : Prop :=
  (encodeDescriptor i).extractLsb' 12 4 = Encoding.kindBits i ∧ (encodeDescriptor i).getLsbD 11 = false ∧
    descSize (encodeDescriptor i) = BitVec.ofNat 3 i.size ∧ descLen (encodeDescriptor i) = BitVec.ofNat 8 i.len

/-- The four bits that select the kind (R89), in packed fields. -/
theorem Encoding.kindBits_pack (dir lock : Bool) (burst : BurstField) (size : SizeField) (len : LenField) :
    (packDescriptor dir lock burst size len).extractLsb' 12 4 =
      BitVec.ofBool dir ++ (BitVec.ofBool lock ++ burst) := by
  apply BitVec.eq_of_getLsbD_eq
  intro i hi
  have : i = 0 ∨ i = 1 ∨ i = 2 ∨ i = 3 := by omega
  simp only [BitVec.getLsbD_extractLsb', packDescriptor_getLsbD, BitVec.getLsbD_append]
  rcases this with rfl | rfl | rfl | rfl <;> simp

/-- The fields of packed fields, in the form of the statement. -/
theorem Encoding.of_pack (i : Instr) (dir lock : Bool) (burst : BurstField)
    (hr : encodeDescriptor i = packDescriptor dir lock burst (BitVec.ofNat 3 i.size) (BitVec.ofNat 8 i.len))
    (hk : BitVec.ofBool dir ++ (BitVec.ofBool lock ++ burst) = Encoding.kindBits i) : Encoding.Statement i := by
  unfold Encoding.Statement
  rw [hr]
  exact ⟨(Encoding.kindBits_pack _ _ _ _ _).trans hk, by rw [packDescriptor_getLsbD]; rfl, descSize_pack _ _ _ _ _,
    descLen_pack _ _ _ _ _⟩

theorem Encoding.rdFixed (size len : Nat) : Encoding.Statement (.rdFixed size len) :=
  Encoding.of_pack _ false false 0#2 rfl (show BitVec.ofBool false ++ (BitVec.ofBool false ++ 0#2) = 0#4 by decide)

theorem Encoding.rdIncr (size len : Nat) : Encoding.Statement (.rdIncr size len) :=
  Encoding.of_pack _ false false 1#2 rfl (show BitVec.ofBool false ++ (BitVec.ofBool false ++ 1#2) = 1#4 by decide)

theorem Encoding.rdWrap (size len : Nat) : Encoding.Statement (.rdWrap size len) :=
  Encoding.of_pack _ false false 2#2 rfl (show BitVec.ofBool false ++ (BitVec.ofBool false ++ 2#2) = 2#4 by decide)

theorem Encoding.rdBadburst (size len : Nat) : Encoding.Statement (.rdBadburst size len) :=
  Encoding.of_pack _ false false 3#2 rfl (show BitVec.ofBool false ++ (BitVec.ofBool false ++ 3#2) = 3#4 by decide)

theorem Encoding.rdxFixed (size len : Nat) : Encoding.Statement (.rdxFixed size len) :=
  Encoding.of_pack _ false true 0#2 rfl (show BitVec.ofBool false ++ (BitVec.ofBool true ++ 0#2) = 4#4 by decide)

theorem Encoding.rdxIncr (size len : Nat) : Encoding.Statement (.rdxIncr size len) :=
  Encoding.of_pack _ false true 1#2 rfl (show BitVec.ofBool false ++ (BitVec.ofBool true ++ 1#2) = 5#4 by decide)

theorem Encoding.rdxWrap (size len : Nat) : Encoding.Statement (.rdxWrap size len) :=
  Encoding.of_pack _ false true 2#2 rfl (show BitVec.ofBool false ++ (BitVec.ofBool true ++ 2#2) = 6#4 by decide)

theorem Encoding.rdxBadburst (size len : Nat) : Encoding.Statement (.rdxBadburst size len) :=
  Encoding.of_pack _ false true 3#2 rfl (show BitVec.ofBool false ++ (BitVec.ofBool true ++ 3#2) = 7#4 by decide)

theorem Encoding.wrFixed (size len : Nat) : Encoding.Statement (.wrFixed size len) :=
  Encoding.of_pack _ true false 0#2 rfl (show BitVec.ofBool true ++ (BitVec.ofBool false ++ 0#2) = 8#4 by decide)

theorem Encoding.wrIncr (size len : Nat) : Encoding.Statement (.wrIncr size len) :=
  Encoding.of_pack _ true false 1#2 rfl (show BitVec.ofBool true ++ (BitVec.ofBool false ++ 1#2) = 9#4 by decide)

theorem Encoding.wrWrap (size len : Nat) : Encoding.Statement (.wrWrap size len) :=
  Encoding.of_pack _ true false 2#2 rfl (show BitVec.ofBool true ++ (BitVec.ofBool false ++ 2#2) = 10#4 by decide)

theorem Encoding.wrBadburst (size len : Nat) : Encoding.Statement (.wrBadburst size len) :=
  Encoding.of_pack _ true false 3#2 rfl (show BitVec.ofBool true ++ (BitVec.ofBool false ++ 3#2) = 11#4 by decide)

theorem Encoding.wrxFixed (size len : Nat) : Encoding.Statement (.wrxFixed size len) :=
  Encoding.of_pack _ true true 0#2 rfl (show BitVec.ofBool true ++ (BitVec.ofBool true ++ 0#2) = 12#4 by decide)

theorem Encoding.wrxIncr (size len : Nat) : Encoding.Statement (.wrxIncr size len) :=
  Encoding.of_pack _ true true 1#2 rfl (show BitVec.ofBool true ++ (BitVec.ofBool true ++ 1#2) = 13#4 by decide)

theorem Encoding.wrxWrap (size len : Nat) : Encoding.Statement (.wrxWrap size len) :=
  Encoding.of_pack _ true true 2#2 rfl (show BitVec.ofBool true ++ (BitVec.ofBool true ++ 2#2) = 14#4 by decide)

theorem Encoding.wrxBadburst (size len : Nat) : Encoding.Statement (.wrxBadburst size len) :=
  Encoding.of_pack _ true true 3#2 rfl (show BitVec.ofBool true ++ (BitVec.ofBool true ++ 3#2) = 15#4 by decide)

end Sys2Proof.Laws
end

