-- ==== Sys2Proof/Tests/Slice0.lean ====
section
/-!
SUPPORT. Tests on small states: the smoke tests of WellFormed, a descriptor word written out from spec/30_encoding.md R89 and R90
for every request kind, values of 95_test_vectors.md (each test names its vector), and for every statement with hypotheses a
concrete case that meets them (`test_meets_<Name>`).
-/

namespace Sys2Proof.Tests

open Sys2Proof Sys2Proof.Machine Sys2Proof.Safety

/-! ## Helpers -/

/-- The next state of an outcome; every outcome here is one. -/
def after (o : Host.Outcome State Fault Refusal) : State :=
  match o with
  | .next s => s
  | .fault _ => State.reset
  | .refused _ => State.reset

/-- A RAM of the vectors at 0x1000. -/
def ram (length : Nat) : Registration := ⟨0x1000, .ofNat 64 length, .tram length ⟨[]⟩⟩

/-- `REG-A`. -/
def regA : List Registration := [ram 0x1000]

/-- `REG-B`, the counter at `c` and the tick register at `t`. -/
def regB (c t : Data) : List Registration := [ram 0x2000, ⟨0x4000, 0x100, .cnt c⟩, ⟨0x5000, 0x100, .tick t⟩]

/-- A live slot. -/
def live (a : Addr) (z : SizeField) : Slot := ⟨true, a, z⟩

/-- An invalid slot. -/
def free : Slot := ⟨false, 0, 0⟩

/-- A table of two slots. -/
def table (a b : Slot) (cursor : Nat) : Monitor := ⟨[a, b], cursor⟩

/-- Whether each slot is live, with its address. -/
def liveAddrs (m : Monitor) : List (Option Addr) := m.slots.map (fun t => if t.valid then some t.addr else none)

/-- The read engine in the middle of a request, at beat `beat`, `rready` high. -/
def reading (reg : List Registration) (i : Instr) (addr : Addr) (beat : Nat) : State :=
  { State.construct Params.default reg with
    R := ⟨.sending, beat, none, addr, i.request.size, i.request.burst, 5, i.request.len, i.request.lock⟩
    inp := { MasterWires.quiet with rready := true } }

/-- The same with `rready` low. -/
def stalled (reg : List Registration) (i : Instr) (addr : Addr) (beat : Nat) : State :=
  { reading reg i addr beat with inp := .quiet }

/-- The write engine in the data phase of a request, a data beat offered, marked last or not. -/
def writing (reg : List Registration) (i : Instr) (addr : Addr) (beat : Nat) (m : Monitor) (data : Data)
    (strobe : Strobe) (last : Bool) : State :=
  { State.construct Params.default reg with
    W := ⟨.acceptingData, beat, addr, i.request.size, i.request.burst, 5, i.request.len, i.request.lock, .okay⟩
    M := m
    inp := { MasterWires.quiet with wvalid := true, wdata := data, wstrb := strobe, wlast := last } }

/-- The write engine offering a response. -/
def responding (i : Instr) (p : Resp) (ready : Bool) : State :=
  { writing regA i 0x1000 0 (table free free 0) 0 0 false with
    W := ⟨.responding, 0, 0x1000, i.request.size, i.request.burst, 5, i.request.len, i.request.lock, p⟩
    inp := { MasterWires.quiet with bready := ready } }

/-- The byte at an offset of the first device. -/
def byte0 (s : State) (x : Nat) : Option Byte := byteAt s.registry 0 x

/-- The count of a counter or tick register at a position. -/
def count (s : State) (k : Nat) : Option Data :=
  match s.registry[k]? with
  | some ⟨_, _, .cnt c⟩ => some c
  | some ⟨_, _, .tick t⟩ => some t
  | _ => none

/-! ## WellFormed: each check refuses an ill-formed term -/

theorem test_size_8_is_refused : (Instr.rdIncr 8 0).sizeFits = false ∧ (Instr.rdIncr 8 0).wellFormed = false := by decide

theorem test_len_256_is_refused : (Instr.wrxWrap 3 256).lenFits = false ∧ (Instr.wrxWrap 3 256).wellFormed = false := by
  decide

theorem test_largest_operands_are_well_formed : (Instr.wrxBadburst 7 255).wellFormed = true := by decide

/-! ## Decoding: one word a kind, written from R89 (dir, lock, burst, z, size, len) and R90 -/

theorem test_decode_rdFixed : decodeTableWord 16 0b0_0_00_0_011_00000011 = some (.rdFixed 3 3) := by decide
theorem test_decode_rdIncr : decodeTableWord 16 0b0_0_01_0_010_00000000 = some (.rdIncr 2 0) := by decide
theorem test_decode_rdWrap : decodeTableWord 16 0b0_0_10_0_010_00000011 = some (.rdWrap 2 3) := by decide
theorem test_decode_rdBadburst : decodeTableWord 16 0b0_0_11_0_011_00000001 = some (.rdBadburst 3 1) := by decide
theorem test_decode_rdxFixed : decodeTableWord 16 0b0_1_00_0_100_10000000 = some (.rdxFixed 4 128) := by decide
theorem test_decode_rdxIncr : decodeTableWord 16 0b0_1_01_0_011_00000010 = some (.rdxIncr 3 2) := by decide
theorem test_decode_rdxWrap : decodeTableWord 16 0b0_1_10_0_010_00000001 = some (.rdxWrap 2 1) := by decide
theorem test_decode_rdxBadburst : decodeTableWord 16 0b0_1_11_0_000_11111111 = some (.rdxBadburst 0 255) := by decide
theorem test_decode_wrFixed : decodeTableWord 16 0b1_0_00_0_011_00000001 = some (.wrFixed 3 1) := by decide
theorem test_decode_wrIncr : decodeTableWord 16 0b1_0_01_0_011_00000000 = some (.wrIncr 3 0) := by decide
theorem test_decode_wrWrap : decodeTableWord 16 0b1_0_10_0_010_00000011 = some (.wrWrap 2 3) := by decide
theorem test_decode_wrBadburst : decodeTableWord 16 0b1_0_11_0_010_00000000 = some (.wrBadburst 2 0) := by decide
theorem test_decode_wrxFixed : decodeTableWord 16 0b1_1_00_0_011_00000001 = some (.wrxFixed 3 1) := by decide
theorem test_decode_wrxIncr : decodeTableWord 16 0b1_1_01_0_111_01000000 = some (.wrxIncr 7 64) := by decide
theorem test_decode_wrxWrap : decodeTableWord 16 0b1_1_10_0_010_00000001 = some (.wrxWrap 2 1) := by decide
theorem test_decode_wrxBadburst : decodeTableWord 16 0b1_1_11_0_011_00000000 = some (.wrxBadburst 3 0) := by decide

/-- Bit 11 has no meaning (R89): the same request with it set. -/
theorem test_decode_ignores_bit_11 : decodeTableWord 16 0b0_0_01_1_010_00000000 = some (.rdIncr 2 0) := by decide

/-- One byte is no descriptor. -/
theorem test_decode_truncated : decode [0x00#8] = .error .truncated := by rfl

/-! ## Reset and storage -/

theorem test_reset_engines_idle : State.reset.R.state = .idle ∧ State.reset.W.state = .idle := by decide

theorem test_reset_table_empty : liveAddrs State.reset.M = [none, none] := by decide

theorem test_construct_storage_wf : ∀ g ∈ regB 5 0, storageWf g.dev := by
  intro g hg
  simp only [regB, ram, List.mem_cons, List.not_mem_nil, or_false] at hg
  rcases hg with rfl | rfl | rfl
  · exact Memory.empty_wf
  · trivial
  · trivial

/-- Writing what an unlisted byte reads as lists nothing. -/
theorem test_store_keeps_canonical_form : ((⟨[]⟩ : Memory).write 5 5).cells = [] ∧ ((⟨[(5, 9)]⟩ : Memory).write 5 5).cells = [] := by
  decide

/-! ## Reads -/

/-- V-RD-4, second beat: the counter at 11. -/
theorem test_rdFixed_reads_the_counter_again :
    (after (exec (.rdFixed 3 3) (reading (regB 11 0) (.rdFixed 3 3) 0x4000 1))).out.rdata = 11 ∧
      count (after (exec (.rdFixed 3 3) (reading (regB 11 0) (.rdFixed 3 3) 0x4000 1))) 1 = some 12 := by decide

/-- V-RD-1. -/
theorem test_rdIncr_first_beat :
    (after (exec (.rdIncr 3 0) (reading regA (.rdIncr 3 0) 0x1000 0))).out.rdata = 0x0706050403020100 ∧
      (after (exec (.rdIncr 3 0) (reading regA (.rdIncr 3 0) 0x1000 0))).out.rlast = true := by decide

/-- V-RD-3, third beat: decoded, but in another page. -/
theorem test_rdIncr_page_crossing :
    (after (exec (.rdIncr 3 3) (reading (regB 0 0) (.rdIncr 3 3) 0x1FF0 2))).out.rresp = 0b11#2 ∧
      (after (exec (.rdIncr 3 3) (reading (regB 0 0) (.rdIncr 3 3) 0x1FF0 2))).R.state = .idle := by decide

/-- V-RD-7, third beat, literal formula. -/
theorem test_rdWrap_literal :
    (after (exec (.rdWrap 2 3) (reading regA (.rdWrap 2 3) 0x1008 2))).out.rdata = 0x0B0A0908 := by decide

/-- V-RD-7, third beat, `WRAP_FORMULA = AXI`. -/
theorem test_rdWrap_axi :
    (after (exec (.rdWrap 2 3)
      { reading regA (.rdWrap 2 3) 0x1008 2 with params := { Params.default with wrapFormula := .axi } })).out.rdata =
        0x03020100 := by decide

/-- V-RD-8, second beat. -/
theorem test_rdBadburst_second_beat :
    (after (exec (.rdBadburst 3 1) (reading regA (.rdBadburst 3 1) 0x1000 1))).out.rdata = 0x0706050403020100 ∧
      (after (exec (.rdBadburst 3 1) (reading regA (.rdBadburst 3 1) 0x1000 1))).out.rlast = true := by decide

/-- R196 with V-MON-7: each locked FIXED beat reserves, without removing duplicates. -/
theorem test_rdxFixed_reserves_twice :
    liveAddrs (after (exec (.rdxFixed 3 1)
      { reading regA (.rdxFixed 3 1) 0x1000 1 with M := table (live 0x1000 3) free 0 })).M =
        [some 0x1000, some 0x1000] := by decide

/-- V-RD-9, third beat. -/
theorem test_rdxIncr_evicts :
    (after (exec (.rdxIncr 3 2)
      { reading regA (.rdxIncr 3 2) 0x1000 2 with M := table (live 0x1000 3) (live 0x1008 3) 0 })).M =
        table (live 0x1010 3) (live 0x1008 3) 1 := by decide

/-- V-RD-10. -/
theorem test_rdxIncr_decode_error_reserves :
    (after (exec (.rdxIncr 3 0) (reading regA (.rdxIncr 3 0) 0x8000 0))).out.rresp = 0b11#2 ∧
      liveAddrs (after (exec (.rdxIncr 3 0) (reading regA (.rdxIncr 3 0) 0x8000 0))).M = [some 0x8000, none] := by decide

/-- V-X-10, the read's second beat. -/
theorem test_rdxWrap_reserves :
    (after (exec (.rdxWrap 2 1)
      { reading regA (.rdxWrap 2 1) 0x1008 1 with M := table (live 0x1008 2) free 0 })).M =
        table (live 0x1008 2) (live 0x100C 2) 0 := by decide

/-- R199: as FIXED, exclusive. -/
theorem test_rdxBadburst_is_exclusive :
    (after (exec (.rdxBadburst 3 1) (reading regA (.rdxBadburst 3 1) 0x1000 1))).out.rresp = 0b01#2 ∧
      liveAddrs (after (exec (.rdxBadburst 3 1) (reading regA (.rdxBadburst 3 1) 0x1000 1))).M = [some 0x1000, none] := by
  decide

/-! ## Writes -/

/-- V-WR-10, second beat. -/
theorem test_wrFixed_second_beat_at_offset_0 :
    byte0 (after (exec (.wrFixed 3 1)
      (writing regA (.wrFixed 3 1) 0x1000 1 (table free free 0) 0xBBBBBBBBBBBBBBBB 0xFF true))) 0 = some 0xBB := by decide

/-- V-WR-2: the lanes the strobe leaves out keep their bytes. -/
theorem test_wrIncr_partial_strobe :
    byte0 (after (exec (.wrIncr 3 0)
      (writing regA (.wrIncr 3 0) 0x1000 0 (table free free 0) 0xAAAAAAAAAAAAAAAA 0x0F true))) 3 = some 0xAA ∧
    byte0 (after (exec (.wrIncr 3 0)
      (writing regA (.wrIncr 3 0) 0x1000 0 (table free free 0) 0xAAAAAAAAAAAAAAAA 0x0F true))) 4 = some 0x04 := by decide

/-- V-WR-3, second beat. -/
theorem test_wrIncr_page_crossing :
    (after (exec (.wrIncr 3 1)
      (writing (regB 0 0) (.wrIncr 3 1) 0x1FF8 1 (table free free 0) 0x2222222222222222 0xFF true))).W.pending = .decerr := by
  decide

/-- V-WR-9, last beat. -/
theorem test_wrWrap_last_beat :
    byte0 (after (exec (.wrWrap 2 3)
      (writing regA (.wrWrap 2 3) 0x1008 3 (table free free 0) 0xD4D3D2D1 0x0F true))) 0xC = some 0xD1 := by decide

/-- V-WR-11. -/
theorem test_wrBadburst_at_offset_0 :
    byte0 (after (exec (.wrBadburst 2 0)
      (writing regA (.wrBadburst 2 0) 0x1000 0 (table free free 0) 0xCAFEF00D 0x0F true))) 1 = some 0xF0 := by decide

/-- V-X-12: the first beat consumes the reservation. -/
theorem test_wrxFixed_consumes :
    (after (exec (.wrxFixed 3 1)
      (writing regA (.wrxFixed 3 1) 0x1000 0 (table (live 0x1000 3) free 0) 0xAA 0xFF false))).W.pending = .exokay ∧
    liveAddrs (after (exec (.wrxFixed 3 1)
      (writing regA (.wrxFixed 3 1) 0x1000 0 (table (live 0x1000 3) free 0) 0xAA 0xFF false))).M = [none, none] := by decide

/-- V-X-4: an overlapping reservation at another address does not count, and is cleared. -/
theorem test_wrxIncr_address_exact :
    byte0 (after (exec (.wrxIncr 2 0)
      (writing regA (.wrxIncr 2 0) 0x1004 0 (table (live 0x1000 3) free 0) 0x44444444 0x0F true))) 4 = some 0x04 ∧
    liveAddrs (after (exec (.wrxIncr 2 0)
      (writing regA (.wrxIncr 2 0) 0x1004 0 (table (live 0x1000 3) free 0) 0x44444444 0x0F true))).M = [none, none] := by
  decide

/-- V-X-5: sizes are not compared. -/
theorem test_wrxIncr_size_not_compared :
    byte0 (after (exec (.wrxIncr 0 0)
      (writing regA (.wrxIncr 0 0) 0x1000 0 (table (live 0x1000 3) free 0) 0x99 0x01 true))) 0 = some 0x99 := by decide

/-- V-X-10, the write's first beat: slot 0 only. -/
theorem test_wrxWrap_clears_slot_0_only :
    liveAddrs (after (exec (.wrxWrap 2 1)
      (writing regA (.wrxWrap 2 1) 0x1008 0 (table (live 0x1008 2) (live 0x100C 2) 0) 1 0x0F false))).M =
        [none, some 0x100C] := by decide

/-- R226: as FIXED, exclusive; a miss writes nothing. -/
theorem test_wrxBadburst_miss :
    (after (exec (.wrxBadburst 3 0)
      (writing regA (.wrxBadburst 3 0) 0x1000 0 (table free free 0) 0x33 0xFF true))).W.pending = .okay ∧
    byte0 (after (exec (.wrxBadburst 3 0)
      (writing regA (.wrxBadburst 3 0) 0x1000 0 (table free free 0) 0x33 0xFF true))) 0 = some 0x00 := by decide

/-! ## The edge -/

/-- V-FS-1, e1: the step comes before the beat. -/
theorem test_step_tick_before_the_beat :
    (after (step (reading (regB 0 1) (.rdIncr 3 0) 0x5000 0))).out.rdata = 2 := by decide

/-- Both channels busy at one edge, as in V-X-8 at e1. -/
def bothBusy : State :=
  { reading regA (.rdxIncr 3 0) 0x1000 0 with
    W := (writing regA (.wrxIncr 3 0) 0x1000 0 (table free free 0) 0 0 true).W
    inp :=
      { MasterWires.quiet with rready := true, wvalid := true, wdata := 0x5A5A5A5A5A5A5A5A, wstrb := 0xFF, wlast := true } }

/-- V-X-8, e1: the read's reservation is live for the write of the same edge. -/
theorem test_step_reserve_then_hit :
    (after (step bothBusy)).W.pending = .exokay ∧ (after (step bothBusy)).out.rdata = 0x0706050403020100 := by decide

/-! ## Cases that meet the hypotheses of the statements -/

theorem test_meets_DecodeEncodeRoundTrip :
    (Instr.rdIncr 7 255).wellFormed = true ∧ (Instr.wrxBadburst 0 0).wellFormed = true := by decide

theorem test_meets_EncodeDecodeRoundTrip : (0xF7FF#16).getLsbD 11 = false := by decide

/-- Length 0, and the last address of a range (V-DEC-4, V-DEC-8). -/
theorem test_meets_MatchIsModularDifferenceBelowLength :
    (⟨0x1000, 0, .cnt 0⟩ : Registration).length = 0 ∧ (ram 0x1000).covers 0x1FFF = true ∧
      (ram 0x1000).covers 0x2000 = false ∧ (ram 0x1000).covers 0x0FFF = false := by decide

/-- A hit at the last offset, the first of two that match (V-DEC-7), and no match. -/
theorem test_meets_DecodeIsFirstMatch :
    busDecode regA 0x1FFF = some (0, 0xFFF) ∧ busDecode [ram 0x1000, ⟨0x1800, 0x1000, .cnt 0⟩] 0x1800 = some (0, 0x800) ∧
      busDecode [ram 0x1000, ⟨0x1800, 0x1000, .cnt 0⟩] 0x2000 = some (1, 0x800) ∧ busDecode regA 0x2000 = none := by decide

/-- The RAM and the counter of `REG-B`. -/
theorem test_meets_DisjointDevicesAreIsolated :
    0 ≠ 1 ∧ (regB 0 0)[0]? = some (ram 0x2000) ∧ (regB 0 0)[1]? = some ⟨0x4000, 0x100, .cnt 0⟩ ∧
      disjointRanges (ram 0x2000) ⟨0x4000, 0x100, .cnt 0⟩ ∧ (ram 0x2000).covers 0x2FFF = true ∧
      isController (.cnt 0) = false ∧ busDecode (regB 0 0) 0x2FFF = some (0, 0x1FFF) := by
  refine ⟨by decide, by decide, by decide, ?_, by decide, by decide, by decide⟩
  intro a
  show ¬(decide ((a - 0x1000#64).toNat < (0x2000#64).toNat) = true ∧ decide ((a - 0x4000#64).toNat < (0x100#64).toNat) = true)
  simp only [decide_eq_true_eq]
  bv_omega

theorem test_meets_BurstAddressFormulas :
    (16 : Nat) = (3 + 1) * 4 ∧ (4 : Nat) = 2 ^ (2#3).toNat ∧
      (0x1000 : Nat) = ((0x1008 : Addr) &&& ~~~(BitVec.ofNat 64 (16 - 1))).toNat := by decide

/-- A window of 16 bytes at its base, where the two formulas agree; and the 12-byte window of V-BA-8, where they do not. -/
theorem test_meets_AxiWrapFormulaAndItsAgreement :
    windowBytes 2 3 = 2 ^ 4 ∧ (0x1010 : Addr).toNat % 2 ^ 4 = 0 ∧
      burstAddr .axi 12 2 0b10#2 2 0 ≠ burstAddr .literal 12 2 0b10#2 2 0 := by decide

theorem test_meets_KindIsSelectedByBits15To12 :
    (0xF000#16).extractLsb' 12 4 = 0b1111#4 ∧ (0x0FFF#16).extractLsb' 12 4 = 0b0000#4 := by decide

/-- The last address below the top, and a window that ends at the top (boundaries of the premises). -/
theorem test_meets_BurstBeatsObeyTheLaws :
    (0xFFFFFFFFFFFFFFF0 : Addr).toNat + 1 * 2 ^ (3#3).toNat < 2 ^ 64 ∧
      (alignedBase 0xFFFFFFFFFFFFFFF8 2 3).toNat + windowBytes 2 3 = 2 ^ 64 ∧
      (0x1008 : Addr).toNat % 2 ^ (3#3).toNat = 0 := by decide

/-- The largest window that stays in its page, and `size` 3. -/
theorem test_meets_OnlyLongBurstsLeaveThePage :
    windowBytes 7 31 = 4096 ∧ (3#3).toNat ≤ 3 ∧ windowBytes 3 255 = 2048 := by decide

/-- A free slot after a live one; a full table. -/
theorem test_meets_ReserveTakesFirstFreeSlotElseCursor :
    ((table (live 0x1000 3) free 0).slots[1]? = some free ∧ free.valid = false ∧
      ∀ j, j < 1 → ∀ u, (table (live 0x1000 3) free 0).slots[j]? = some u → u.valid = true) ∧
    ∀ t ∈ (table (live 0x1000 3) (live 0x2000 3) 1).slots, t.valid = true := by
  refine ⟨⟨rfl, rfl, ?_⟩, by decide⟩
  intro j hj u hu
  obtain rfl : j = 0 := by omega
  cases hu
  rfl

/-- V-MON-2 and V-MON-3. -/
theorem test_meets_ConflictsAndHitReadLiveSlots :
    (table (live 0x1000 3) free 0).conflicts 0x1004 2 = true ∧ (table (live 0x1000 3) free 0).conflicts 0x1008 3 = false ∧
      (table (live 0x1000 3) free 0).conflicts 0x0FF8 3 = false ∧ (table (live 0x1000 3) free 0).conflicts 0x0FFF 1 = true ∧
      (table (live 0x1000 3) free 0).hit 0x1000 = true ∧ (table (live 0x1000 3) free 0).hit 0x1004 = false := by decide

/-- V-MON-8 and V-MON-10. -/
theorem test_meets_InvalidateClearsExactlyTheConflicting :
    (table (live 0x1000 3) (live 0x1008 2) 0).slots[1]? = some (live 0x1008 2) ∧
      liveAddrs ((table (live 0x1000 3) (live 0x1008 2) 0).invalidateConflicting 0x1004 3) = [none, none] ∧
      liveAddrs ((table (live 0xFFFFFFFFFFFFFFF8 3) free 0).invalidateConflicting 0 3) =
        [some 0xFFFFFFFFFFFFFFF8, none] := by decide

/-- The largest id of the wire; and no request. -/
theorem test_meets_ReadRequestIsAccepted :
    (Instr.rdIncr 3 0).request.dir = false ∧ (Instr.rdxBadburst 3 0).request.dir = false ∧
      { State.reset with inp := { MasterWires.quiet with arid := 15 } }.R.state = .idle ∧
      { State.reset with inp := { MasterWires.quiet with arid := 15 } }.inp.arid < 2 ^ State.reset.params.idWidth ∧
      State.reset.inp.arvalid = false := by
  decide

/-- A state whose current beat is cached. -/
def cached (s : State) (v : Data) : State := { s with R := { s.R with cache := some v } }

/-- A beat at the last offset of the RAM's page, the burst's last beat, and one that is not; not cached, and cached. -/
theorem test_meets_ValidReadBeatIsPresented :
    (reading regA (.rdxIncr 3 1) 0x1FF0 1).R.state = .sending ∧ (reading regA (.rdxIncr 3 1) 0x1FF0 1).R.cache = none ∧
      (cached (reading regA (.rdxIncr 3 1) 0x1FF0 1) 7).R.cache = some 7 ∧
      beatDevice (reading regA (.rdxIncr 3 1) 0x1FF0 1) (Instr.rdxIncr 3 1).request 0x1FF0 1 = some (0, 0xFF8) ∧
      beatDevice (reading regA (.rdxIncr 3 1) 0x1FF0 0) (Instr.rdxIncr 3 1).request 0x1FF0 0 = some (0, 0xFF0) ∧
      (reading regA (.rdxIncr 3 1) 0x1FF0 1).registry[0]? = some (ram 0x1000) ∧
      (stalled regA (.rdxIncr 3 1) 0x1FF0 1).inp.rready = false := by decide

/-- A last beat, one that is not, and a decode error. -/
theorem test_meets_ReadHandshakeEndsOrAdvancesTheBurst :
    (reading regA (.rdxIncr 3 1) 0x1FF0 1).R.state = .sending ∧ (reading regA (.rdxIncr 3 1) 0x1FF0 1).inp.rready = true ∧
      (reading regA (.rdxIncr 3 1) 0x1FF0 1).R.beat = (Instr.rdxIncr 3 1).request.len.toNat ∧
      (reading regA (.rdxIncr 3 1) 0x1FF0 0).R.beat ≠ (Instr.rdxIncr 3 1).request.len.toNat ∧
      beatDevice (reading regA (.rdxIncr 3 1) 0x1FFC 1) (Instr.rdxIncr 3 1).request 0x1FFC 1 = none := by decide

/-- An invalid beat, a cached one, and one presented for the first time. -/
theorem test_meets_StalledReadBeatKeepsItsPlace :
    (stalled regA (.rdIncr 3 1) 0x1FFC 1).R.state = .sending ∧ (stalled regA (.rdIncr 3 1) 0x1FFC 1).inp.rready = false ∧
      beatDevice (stalled regA (.rdIncr 3 1) 0x1FFC 1) (Instr.rdIncr 3 1).request 0x1FFC 1 = none ∧
      beatDevice (stalled regA (.rdIncr 3 1) 0x1FFC 0) (Instr.rdIncr 3 1).request 0x1FFC 0 = some (0, 0xFFC) ∧
      (cached (stalled regA (.rdIncr 3 1) 0x1FFC 0) 7).R.cache = some 7 ∧ (stalled regA (.rdIncr 3 1) 0x1FFC 0).R.cache = none ∧
      (stalled regA (.rdIncr 3 1) 0x1FFC 0).registry[0]? = some (ram 0x1000) := by decide

theorem test_meets_ReadDecodeErrorEndsTheBurst :
    (reading regA (.rdxIncr 3 1) 0x1FFC 1).R.state = .sending ∧
      beatDevice (reading regA (.rdxIncr 3 1) 0x1FFC 1) (Instr.rdxIncr 3 1).request 0x1FFC 1 = none := by decide

theorem test_meets_StalledBeatReadsItsDeviceOnce :
    (stalled (regB 5 0) (.rdIncr 2 0) 0x4000 0).R.state = .sending ∧
      (stalled (regB 5 0) (.rdIncr 2 0) 0x4000 0).R.cache = none ∧
      beatDevice (stalled (regB 5 0) (.rdIncr 2 0) 0x4000 0) (Instr.rdIncr 2 0).request 0x4000 0 = some (1, 0) ∧
      (stalled (regB 5 0) (.rdIncr 2 0) 0x4000 0).registry[1]? = some ⟨0x4000, 0x100, .cnt 5⟩ ∧
      (stalled (regB 5 0) (.rdIncr 2 0) 0x4000 0).inp.rready = false := by decide

/-- The largest id of the wire; and no request. -/
theorem test_meets_WriteRequestIsAccepted :
    (Instr.wrIncr 3 0).request.dir = true ∧ (Instr.wrxBadburst 3 0).request.dir = true ∧
      { State.reset with inp := { MasterWires.quiet with awid := 15 } }.W.state = .idle ∧
      { State.reset with inp := { MasterWires.quiet with awid := 15 } }.inp.awid < 2 ^ State.reset.params.idWidth ∧
      State.reset.inp.awvalid = false := by
  decide

/-- The write engine waiting for data. -/
def waiting (i : Instr) : State := { writing regA i 0x1000 0 (table free free 0) 0 0 false with inp := .quiet }

theorem test_meets_DataPhaseDrivesReadyAndWaits :
    (waiting (.wrIncr 3 0)).W.state = .acceptingData ∧ (waiting (.wrIncr 3 0)).inp.wvalid = false := by decide

/-- A locked write whose reservation is live. -/
def exclusive : State := writing regA (.wrxIncr 3 0) 0x1FF8 0 (table (live 0x1FF8 3) free 0) 0x5A 0xFF true

theorem test_meets_ValidWriteBeatIsTaken :
    exclusive.W.state = .acceptingData ∧ exclusive.inp.wvalid = true ∧ exclusive.M.hit 0x1FF8 = true ∧
      beatAddr exclusive.params (Instr.wrxIncr 3 0).request exclusive.W.addr exclusive.W.beat = 0x1FF8 ∧
      beatDevice exclusive (Instr.wrxIncr 3 0).request exclusive.W.addr exclusive.W.beat = some (0, 0xFF8) ∧
      exclusive.registry[0]? = some (ram 0x1000) := by decide

/-- A data beat outside every device. -/
def unmapped : State := writing regA (.wrIncr 3 1) 0x8000 0 (table free free 0) 1 0xFF false

theorem test_meets_WriteDecodeErrorAbortsTheBurst :
    unmapped.W.state = .acceptingData ∧ unmapped.inp.wvalid = true ∧
      beatDevice unmapped (Instr.wrIncr 3 1).request unmapped.W.addr unmapped.W.beat = none := by decide

theorem test_meets_WriteResponseIsOffered :
    (responding (.wrIncr 3 0) .decerr false).W.state = .responding ∧
      (responding (.wrIncr 3 0) .okay true).inp.bready = true := by decide

/-- The byte before the stored ones, one the mask leaves out, and a byte of another device. -/
theorem test_meets_WriteChangesOnlyTheBytesItSelects :
    (∃ t, exec (.wrIncr 3 0) (writing (regB 0 0) (.wrIncr 3 0) 0x1008 0 (table free free 0) 1 0x0F true) = .next t) ∧
      beatDevice (writing (regB 0 0) (.wrIncr 3 0) 0x1008 0 (table free free 0) 1 0x0F true) (Instr.wrIncr 3 0).request
        0x1008 0 = some (0, 8) ∧
      (ram 0x2000).dev.writtenOffsets 8 3 0x0F = [8, 9, 10, 11] ∧ 7 ∉ (ram 0x2000).dev.writtenOffsets 8 3 0x0F ∧
      12 ∉ (ram 0x2000).dev.writtenOffsets 8 3 0x0F ∧ isController (.cnt 0) = false :=
  ⟨⟨_, rfl⟩, by decide, by decide, by decide, by decide, by decide⟩

theorem test_meets_ReadsChangeNoByteOfAFixture :
    (∃ t, exec (.rdIncr 3 0) (reading regA (.rdIncr 3 0) 0x1000 0) = .next t) ∧
      (reading regA (.rdIncr 3 0) 0x1000 0).registry[0]? = some (ram 0x1000) ∧ ∀ o, (ram 0x1000).dev ≠ .outside o :=
  ⟨⟨_, rfl⟩, by decide, by intro o h; cases h⟩

/-- A selected lane at the last byte of the RAM, and an offset no lane reaches. -/
theorem test_meets_RamWriteStoresTheSelectedLanes :
    (⟨[]⟩ : Memory).wf ∧ (0 : Nat) < 2 ^ (3#3).toNat ∧ (0x01#8).getLsbD 0 = true ∧ (0xFFF : Addr).toNat + 0 < 0x1000 ∧
      ∀ lane, lane < 2 ^ (3#3).toNat → lane < 8 → (0x01#8).getLsbD lane = true → 0xFFE ≠ (0xFFF : Addr).toNat + lane := by
  refine ⟨Memory.empty_wf, by decide, by decide, by decide, ?_⟩
  intro lane _ _ _
  show 0xFFE ≠ 0xFFF + lane
  omega

/-- The last lane of an access and the last byte of the RAM. -/
theorem test_meets_RamReadIsLittleEndian :
    (7 : Nat) < 8 ∧ (7 : Nat) < 2 ^ (3#3).toNat ∧ (0xFF8 : Addr).toNat + 7 < 0x1000 ∧
      ((ram 0x1000).dev.read 0xFFC 3).1 = 0x00000000FFFEFDFC := by decide

theorem test_meets_InterruptCallsReachOnlyTheirController :
    (regB 0 0)[1]? = some ⟨0x4000, 0x100, .cnt 0⟩ ∧
      ([⟨0, 8, .outside ⟨0, false, true, ⟨[]⟩, []⟩⟩] : List Registration)[0]? =
        some ⟨0, 8, .outside ⟨0, false, true, ⟨[]⟩, []⟩⟩ ∧ isController (.outside ⟨0, false, true, ⟨[]⟩, []⟩) = true := by decide

theorem test_meets_LoadReservedThenStoreConditionalSucceeds :
    bothBusy.R.state = .sending ∧ bothBusy.W.state = .acceptingData ∧ bothBusy.inp.rready = true ∧
      bothBusy.inp.wvalid = true ∧ bothBusy.M.cursor < bothBusy.M.slots.length ∧
      (Instr.rdxIncr 3 0).request.lock = true ∧ (Instr.wrxIncr 3 0).request.lock = true ∧
      beatAddr bothBusy.params (Instr.rdxIncr 3 0).request bothBusy.R.addr bothBusy.R.beat = 0x1000 ∧
      beatAddr bothBusy.params (Instr.wrxIncr 3 0).request bothBusy.W.addr bothBusy.W.beat = 0x1000 ∧
      beatDevice bothBusy (Instr.rdxIncr 3 0).request bothBusy.R.addr bothBusy.R.beat = some (0, 0) ∧
      beatDevice bothBusy (Instr.wrxIncr 3 0).request bothBusy.W.addr bothBusy.W.beat = some (0, 0) := by decide

/-- An edge whose data beat succeeds, by an older reservation and by one of the same edge; an edge with no data beat. -/
theorem test_meets_ExclusiveSuccessNeedsALiveReservation :
    (∃ t, step exclusive = .next t ∧ exclusive.W.state = .acceptingData ∧ exclusive.inp.wvalid = true ∧
      t.W.pending = .exokay ∧ exclusive.M.hit 0x1FF8 = true) ∧
    (∃ t, step bothBusy = .next t ∧ bothBusy.W.state = .acceptingData ∧ bothBusy.inp.wvalid = true ∧
      t.W.pending = .exokay ∧ bothBusy.M.hit 0x1000 = false) ∧
    (∃ t, step (waiting (.wrIncr 3 0)) = .next t ∧ (waiting (.wrIncr 3 0)).inp.wvalid = false) :=
  ⟨⟨after (step exclusive), rfl, by decide⟩, ⟨after (step bothBusy), rfl, by decide⟩,
    ⟨after (step (waiting (.wrIncr 3 0))), rfl, by decide⟩⟩

theorem test_meets_ValidWriteBeatClearsWhatItMeets :
    exclusive.W.state = .acceptingData ∧ exclusive.inp.wvalid = true ∧ exclusive.M.hit 0x1FF8 = true ∧
      beatDevice exclusive (Instr.wrxIncr 3 0).request exclusive.W.addr exclusive.W.beat = some (0, 0xFF8) := by decide

/-- A locked read beat over a full table. -/
def evicting : State :=
  { reading regA (.rdxIncr 3 2) 0x1000 2 with M := table (live 0x1000 3) (live 0x1008 3) 1 }

/-- Broken by a write, and by an eviction. -/
theorem test_meets_OnlyWritesAndEvictionBreakReservations :
    (∃ t, step exclusive = .next t ∧ exclusive.M.slots[0]? = some (live 0x1FF8 3) ∧
      t.M.slots[0]? ≠ some (live 0x1FF8 3)) ∧
    (∃ t, step evicting = .next t ∧ evicting.M.slots[1]? = some (live 0x1008 3) ∧
      t.M.slots[1]? ≠ some (live 0x1008 3)) :=
  ⟨⟨after (step exclusive), rfl, by decide⟩, ⟨after (step evicting), rfl, by decide⟩⟩

theorem test_meets_NewReservationsComeFromLockedReads :
    ∃ t, step evicting = .next t ∧ t.M.slots[1]? = some (live 0x1010 3) ∧ (live 0x1010 3).valid = true ∧
      evicting.M.slots[1]? ≠ some (live 0x1010 3) :=
  ⟨after (step evicting), rfl, by decide⟩

/-- Both address channels offered at reset, as in V-FS-2. -/
def offering : State :=
  { State.construct Params.default regA with
    inp := { MasterWires.quiet with
      arvalid := true, araddr := 0x1000, arsize := 3, arburst := 1, awvalid := true, awaddr := 0x1000, awsize := 3, awburst := 1 } }

/-- A request on the wires, a request latched, on each channel; and no request. -/
theorem test_meets_StepRunsTheRequestsServed :
    (offering.R.state = .idle ∧ offering.inp.arvalid = true ∧
      decode (bytesOfDescriptor (arDescriptor offering.inp)) = .ok (.rdIncr 3 0, [])) ∧
    (offering.W.state = .idle ∧ offering.inp.awvalid = true ∧
      decode (bytesOfDescriptor (awDescriptor offering.inp)) = .ok (.wrIncr 3 0, [])) ∧
    (bothBusy.R.state = .sending ∧ decode (bytesOfDescriptor bothBusy.R.descriptor) = .ok (.rdxIncr 3 0, [])) ∧
    (bothBusy.W.state ≠ .idle ∧ decode (bytesOfDescriptor bothBusy.W.descriptor) = .ok (.wrxIncr 3 0, [])) ∧
    State.reset.R.state = .idle ∧ State.reset.inp.arvalid = false ∧ State.reset.W.state = .idle ∧
      State.reset.inp.awvalid = false :=
  ⟨⟨rfl, rfl, rfl⟩, ⟨rfl, rfl, rfl⟩, ⟨rfl, rfl⟩, ⟨by decide, rfl⟩, rfl, rfl, rfl, rfl⟩

/-- A read and a write word. -/
theorem test_meets_PlacedRequestRunsNext :
    decodeTableWord 16 0x5302 = some (.rdxIncr 3 2) ∧ (Instr.rdxIncr 3 2).request.dir = false ∧
      decodeTableWord 16 0xD300 = some (.wrxIncr 3 0) ∧ (Instr.wrxIncr 3 0).request.dir = true := by decide

theorem test_meets_HandshakeWiresFollowTheState :
    (∃ t, step bothBusy = .next t ∧ bothBusy.R.state = .sending ∧ t.out.rid = 5) ∧
      (∃ t, step (responding (.wrIncr 3 0) .decerr true) = .next t ∧
        (responding (.wrIncr 3 0) .decerr true).W.state = .responding ∧ t.out.bresp = 0b11#2) :=
  ⟨⟨after (step bothBusy), rfl, by decide⟩, ⟨after (step (responding (.wrIncr 3 0) .decerr true)), rfl, by decide⟩⟩

/-- Wires that differ in the hints, in the other channels' payload and in what the state does not read. -/
theorem test_meets_UnreadWiresMakeNoDifference :
    readWiresAgree .idle offering.inp { offering.inp with arcache := 5, arprot := 7, arqos := 3, arregion := 1, rready := true } ∧
      readWiresAgree .sending MasterWires.quiet offering.inp ∧
      writeWiresAgree .idle offering.inp { offering.inp with awcache := 5, awqos := 3, wvalid := true, bready := true } ∧
      writeWiresAgree .acceptingData MasterWires.quiet { offering.inp with wdata := 9, wlast := true } ∧
      writeWiresAgree .responding MasterWires.quiet { offering.inp with wvalid := true } ∧
      offering.inp ≠ { offering.inp with arcache := 5 } := by
  simp [readWiresAgree, writeWiresAgree, offering, MasterWires.quiet]

/-- Registers that differ while `IDLE`, with and without a request. -/
theorem test_meets_IdleRegistersMakeNoDifference :
    (∃ t, step offering = .next t) ∧ offering.R.state = .idle ∧ { offering.R with addr := 9, cache := some 3 }.state = .idle ∧
      { offering.R with addr := 9, cache := some 3 } ≠ offering.R ∧ offering.inp.arvalid = true ∧
      offering.W.state = .idle ∧ { offering.W with pending := .decerr }.state = .idle ∧ offering.inp.awvalid = true ∧
      (∃ t, step State.reset = .next t) ∧ State.reset.inp.arvalid = false ∧ State.reset.inp.awvalid = false :=
  ⟨⟨_, rfl⟩, rfl, rfl, by decide, rfl, rfl, rfl, rfl, ⟨_, rfl⟩, rfl, rfl⟩

theorem test_meets_ReadEngineIgnoresTheWriteEngine :
    (∃ t, step bothBusy = .next t) ∧ (∃ u, step { bothBusy with W := WriteReg.reset } = .next u) ∧
      WriteReg.reset ≠ bothBusy.W :=
  ⟨⟨_, rfl⟩, ⟨_, rfl⟩, by decide⟩

/-- Each signal withheld, now and in every later sample. -/
theorem test_meets_WithheldSignalStallsForever :
    (stalled regA (.rdIncr 3 0) 0x1000 0).R.state = .sending ∧ (stalled regA (.rdIncr 3 0) 0x1000 0).inp.rready = false ∧
      (∀ w ∈ (stalled regA (.rdIncr 3 0) 0x1000 0).script, w.rready = false) ∧
      (waiting (.wrIncr 3 0)).W.state = .acceptingData ∧ (waiting (.wrIncr 3 0)).inp.wvalid = false ∧
      (∀ w ∈ (waiting (.wrIncr 3 0)).script, w.wvalid = false) ∧
      (responding (.wrIncr 3 0) .okay false).W.state = .responding ∧
      (responding (.wrIncr 3 0) .okay false).inp.bready = false ∧
      (∀ w ∈ (responding (.wrIncr 3 0) .okay false).script, w.bready = false) ∧
      State.reset.R.state = .idle ∧ State.reset.inp.arvalid = false ∧ (∀ w ∈ State.reset.script, w.arvalid = false) ∧
      State.reset.W.state = .idle ∧ State.reset.inp.awvalid = false ∧ (∀ w ∈ State.reset.script, w.awvalid = false) := by
  decide

/-- The fixtures' storage as constructed has its canonical form. -/
theorem regA_wf : registryWf regA := by
  intro g hg
  simp only [regA, List.mem_singleton] at hg
  subst hg
  exact Memory.empty_wf

/-- A busy state that meets the invariant: the second beat of two is cached and a locked success is pending. -/
def busy : State :=
  { cached (reading regA (.rdIncr 3 1) 0x1000 1) 7 with
    W := (responding (.wrxIncr 3 0) .exokay true).W
    M := table (live 0x1000 3) free 1 }

theorem busy_meets_the_invariant : Invariant busy where
  cacheOnlySending := fun _ => rfl
  beatWithinLen := fun _ => by decide
  slotCount := rfl
  cursorInTable := by decide
  readIdFits := by decide
  writeIdFits := by decide
  responseLegal := fun _ => ⟨by decide, fun _ => rfl⟩
  storage := regA_wf

theorem test_meets_SlaveErrorIsNeverDriven :
    Invariant busy ∧ ∃ t, step busy = .next t ∧ t.out.rvalid = true ∧ t.out.bvalid = true :=
  ⟨busy_meets_the_invariant, after (step busy), rfl, by decide⟩

theorem test_meets_RegistryAndParametersNeverChange : ∃ t, step busy = .next t ∧ t.registry ≠ [] :=
  ⟨after (step busy), rfl, by decide⟩

theorem test_meets_DeviceStepsComeBeforeTheBusPhase :
    (reading (regB 0 1) (.rdIncr 3 0) 0x5000 0).registry[2]? = some { base := 0x5000, length := 0x100, dev := .tick 1 } ∧
      (reading (regB 0 1) (.rdIncr 3 0) 0x5000 0).R.state = .sending ∧
      (reading (regB 0 1) (.rdIncr 3 0) 0x5000 0).R.cache = none ∧
      beatDevice (reading (regB 0 1) (.rdIncr 3 0) 0x5000 0) (readLatched (reading (regB 0 1) (.rdIncr 3 0) 0x5000 0).R)
        0x5000 0 = some (2, 0) := by decide

/-- A parameter that names a position twice and one that is out of range; and the tick register of `REG-B`. -/
theorem test_meets_EachDeviceStepsOncePerEdge :
    deviceOrder 3 [2, 7, 2] = [2, 0, 1] ∧ (reading (regB 0 1) (.rdIncr 3 0) 0x5000 0).registry[2]? = some ⟨0x5000, 0x100, .tick 1⟩ ∧
      isController (.tick 1) = false := by decide

theorem test_meets_ConstructionMeetsTheInvariant : 0 < Params.default.capacity ∧ registryWf regA := ⟨by decide, regA_wf⟩

theorem test_meets_EveryStepKeepsTheInvariant : Invariant busy ∧ ∃ t, step busy = .next t :=
  ⟨busy_meets_the_invariant, _, rfl⟩

/-- A master that is always ready. -/
def eager : MasterWires := { MasterWires.quiet with rready := true, wvalid := true, bready := true }

/-- Two beats at the end of a page of `REG-B`, then a beat in the next page (V-RD-3); and a burst that ends at its `len`. -/
def burstRead (len : LenField) : State :=
  { State.construct Params.default (regB 0 0) with
    inp := { MasterWires.quiet with arvalid := true, araddr := 0x1FF0, arsize := 3, arburst := 1, arlen := len }
    script := [eager, eager, eager] }

theorem test_meets_ReadBurstRunsBeatByBeat :
    (burstRead 3).R.state = .idle ∧ (burstRead 3).R.cache = none ∧ (burstRead 3).inp.arvalid = true ∧
      2 ≤ (readOffered (burstRead 3).inp).len.toNat ∧
      (∀ j, j ≤ 2 → ∃ w, (burstRead 3).script[j]? = some w ∧ w.rready = true) ∧
      (∀ j, j < 2 → (beatDevice (burstRead 3) (readOffered (burstRead 3).inp) 0x1FF0 j).isSome = true) ∧
      beatDevice (burstRead 3) (readOffered (burstRead 3).inp) 0x1FF0 2 = none ∧
      1 = (readOffered (burstRead 1).inp).len.toNat ∧
      (∀ j, j < 1 → (beatDevice (burstRead 1) (readOffered (burstRead 1).inp) 0x1FF0 j).isSome = true) := by
  refine ⟨rfl, rfl, rfl, by decide, ?_, ?_, by decide, by decide, ?_⟩
  · intro j hj
    interval_cases j <;> exact ⟨eager, rfl, rfl⟩
  · intro j hj
    interval_cases j <;> decide
  · intro j hj
    interval_cases j
    decide

/-- A write of two beats, the second in the next page (V-WR-3); and one whose second beat is marked last. -/
def burstWrite (addr : Addr) : State :=
  { State.construct Params.default (regB 0 0) with
    inp := { MasterWires.quiet with awvalid := true, awaddr := addr, awsize := 3, awburst := 1, awlen := 1 }
    script := [eager, { eager with wlast := true }, eager] }

theorem test_meets_WriteBurstRunsBeatByBeat :
    (burstWrite 0x1FF8).W.state = .idle ∧ (burstWrite 0x1FF8).inp.awvalid = true ∧
      (∀ j, j ≤ 1 → ∃ w, (burstWrite 0x1FF8).script[j]? = some w ∧ w.wvalid = true ∧ (j < 1 → w.wlast = false)) ∧
      (∀ j, j < 1 → (beatDevice (burstWrite 0x1FF8) (writeOffered (burstWrite 0x1FF8).inp) 0x1FF8 j).isSome = true) ∧
      beatDevice (burstWrite 0x1FF8) (writeOffered (burstWrite 0x1FF8).inp) 0x1FF8 1 = none ∧
      (∃ w, (burstWrite 0x1FF8).script[1]? = some w ∧ w.wlast = true) ∧
      (∃ w, (burstWrite 0x1FF8).script[2]? = some w ∧ w.bready = true) ∧
      (∀ j, j < 1 → (beatDevice (burstWrite 0x1000) (writeOffered (burstWrite 0x1000).inp) 0x1000 j).isSome = true) ∧
      beatDevice (burstWrite 0x1000) (writeOffered (burstWrite 0x1000).inp) 0x1000 1 = some (0, 8) := by
  refine ⟨rfl, rfl, ?_, ?_, by decide, ⟨_, rfl, rfl⟩, ⟨_, rfl, rfl⟩, ?_, by decide⟩
  · intro j hj
    interval_cases j
    · exact ⟨eager, rfl, rfl, fun _ => rfl⟩
    · exact ⟨{ eager with wlast := true }, rfl, rfl, fun h => absurd h (by decide)⟩
  · intro j hj
    interval_cases j
    decide
  · intro j hj
    interval_cases j
    decide

/-- A beat of the counter of `REG-B`, held over three edges: the wires of the first are `inp`, of the others `script`. -/
def heldOverEdges : State := { stalled (regB 5 0) (.rdIncr 2 0) 0x4000 0 with script := [.quiet, .quiet, eager] }

theorem test_meets_StalledValueStaysOverEdges :
    heldOverEdges.R.state = .sending ∧ heldOverEdges.R.cache = none ∧
      beatDevice heldOverEdges (readLatched heldOverEdges.R) heldOverEdges.R.addr heldOverEdges.R.beat = some (1, 0) ∧
      (beginEdge heldOverEdges).registry[1]? = some ⟨0x4000, 0x100, .cnt 5⟩ ∧ ((Device.cnt 5).read 0 2).1 = 5 ∧
      heldOverEdges.inp.rready = false ∧ (∀ j, j < 2 → ∃ w, heldOverEdges.script[j]? = some w ∧ w.rready = false) := by
  refine ⟨rfl, rfl, by decide, by decide, rfl, rfl, ?_⟩
  intro j hj
  interval_cases j <;> exact ⟨.quiet, rfl, rfl⟩

end Sys2Proof.Tests
end

section
/-!
PROOFS. Facts about one edge that the statements of 10_state.md share: where a step ends, what each engine's evaluation does to
its own register, which of the fields it does not read pass through it, and where a live slot comes from.
-/

namespace Sys2Proof.Machine

open Sys2Proof.Safety

/-! ## Where a step ends -/

/-- A step has one end: the two evaluations between the edge's two ends (R240). -/
theorem step_eq_next_iff (s t : State) : step s = .next t ↔ t = endEdge (writePart (readPart (beginEdge s))) := by
  rw [step_eq, Host.Outcome.next.injEq]
  exact eq_comm

/-! ## The engines' parts by state (R180, R210) -/

theorem readPart_accept (s : State) (hs : s.R.state = .idle) (hv : s.inp.arvalid = true) :
    readPart s = acceptRead (readOffered s.inp) s := by
  simp [readPart, hs, hv]

theorem readPart_wait (s : State) (hs : s.R.state = .idle) (hv : s.inp.arvalid = false) :
    readPart s = driveReadIdle s := by
  simp [readPart, hs, hv]

theorem readPart_sending (s : State) (hs : s.R.state = .sending) : readPart s = sendRead (readLatched s.R) s := by
  simp [readPart, hs]

theorem writePart_accept (s : State) (hs : s.W.state = .idle) (hv : s.inp.awvalid = true) :
    writePart s = acceptWrite (writeOffered s.inp) s := by
  simp [writePart, hs, hv]

theorem writePart_wait (s : State) (hs : s.W.state = .idle) (hv : s.inp.awvalid = false) :
    writePart s = driveWriteOpen s true false := by
  simp [writePart, hs, hv]

theorem writePart_data (s : State) (hs : s.W.state = .acceptingData) :
    writePart s = acceptWriteData (writeLatched s.W) s := by
  simp [writePart, hs]

theorem writePart_responding (s : State) (hs : s.W.state = .responding) : writePart s = respondWrite s := by
  simp [writePart, hs]

/-! ## The write register -/

/-- What a data-phase evaluation does to the write register: nothing without a beat; a decode error makes DECERR due; a valid
beat sets the response and ends the data phase or advances `beat` (R214 to R216). -/
theorem acceptWriteData_W (q : Request) (s : State) :
    (acceptWriteData q s).W = s.W ∨
      (acceptWriteData q s).W = { s.W with pending := .decerr, state := .responding } ∨
      ∃ hit, (acceptWriteData q s).W = { s.W with pending := writeBeatResp q.lock hit, state := .responding } ∨
        (acceptWriteData q s).W = { s.W with pending := writeBeatResp q.lock hit, beat := s.W.beat + 1 } := by
  cases hv : s.inp.wvalid with
  | false => exact .inl (by rw [acceptWriteData_none q s hv]; rfl)
  | true =>
    cases ht : writeBeatTarget q s with
    | none => exact .inr (.inl (by rw [acceptWriteData_invalid q s ht hv]; rfl))
    | some p =>
      refine .inr (.inr ⟨s.M.hit (writeBeatAddr q s), ?_⟩)
      rw [acceptWriteData_valid q s p.1 p.2 ht hv]
      cases hl : s.inp.wlast with
      | true => exact .inl (by simp [takeWriteBeat, hl])
      | false => exact .inr (by simp [takeWriteBeat, hl])

/-- What a response evaluation does to the write register (R217, R218). -/
theorem respondWrite_W (s : State) :
    (respondWrite s).W = if s.inp.bready then { s.W with state := .idle } else s.W := by
  unfold respondWrite
  cases s.inp.bready <;> rfl

/-! ## What an evaluation does not read (R26, R27, R249) -/

/-- The read channels' wires of one sample with the write channels' wires of another. -/
def FabricWires.join (r w : FabricWires) : FabricWires :=
  { w with
    arready := r.arready
    rvalid := r.rvalid
    rlast := r.rlast
    rdata := r.rdata
    rresp := r.rresp
    rid := r.rid }

@[simp] theorem FabricWires.join_join_left (a b c : FabricWires) : (a.join b).join c = a.join c := rfl

theorem presentReadBeat_with_W_out (q : Request) (k : Nat) (off : Addr) (s : State) (w : WriteReg) (o : FabricWires) :
    presentReadBeat q k off { s with W := w, out := o } =
      { presentReadBeat q k off s with W := w, out := (presentReadBeat q k off s).out.join o } := by
  unfold presentReadBeat
  cases s.R.cache <;> rfl

theorem sendRead_with_W_out (q : Request) (s : State) (w : WriteReg) (o : FabricWires) :
    sendRead q { s with W := w, out := o } = { sendRead q s with W := w, out := (sendRead q s).out.join o } := by
  have htarget : readBeatTarget q { s with W := w, out := o } = readBeatTarget q s := rfl
  simp only [sendRead, htarget]
  cases readBeatTarget q s with
  | none => cases s.inp.rready <;> rfl
  | some p => simp only [presentReadBeat_with_W_out]; cases s.inp.rready <;> rfl

/-- The read engine's part passes the write register through, and drives the read channels' wires anew. -/
theorem readPart_with_W_out (s : State) (w : WriteReg) (o : FabricWires) :
    readPart { s with W := w, out := o } = { readPart s with W := w, out := (readPart s).out.join o } := by
  cases hs : s.R.state with
  | sending =>
    rw [readPart_sending s hs, ← sendRead_with_W_out]
    exact readPart_sending { s with W := w, out := o } hs
  | idle =>
    cases hv : s.inp.arvalid with
    | true =>
      rw [readPart_accept s hs hv]
      exact readPart_accept { s with W := w, out := o } hs hv
    | false =>
      rw [readPart_wait s hs hv]
      exact readPart_wait { s with W := w, out := o } hs hv

/-- The read engine's part leaves the write channels' wires. -/
theorem readPart_out_join (s : State) : (readPart s).out.join s.out = (readPart s).out :=
  (congrArg State.out (readPart_with_W_out s s.W s.out)).symm

theorem readPart_with_W (s : State) (w : WriteReg) : readPart { s with W := w } = { readPart s with W := w } := by
  rw [readPart_with_W_out s w s.out, readPart_out_join]

theorem readPart_with_out (s : State) (o : FabricWires) :
    readPart { s with out := o } = { readPart s with out := (readPart s).out.join o } := by
  obtain ⟨-, hW, -⟩ := readPart_frame s
  rw [readPart_with_W_out s s.W o, ← hW]

theorem acceptWriteData_with_R_out (q : Request) (s : State) (r : ReadReg) (o : FabricWires) :
    acceptWriteData q { s with R := r, out := o } =
      { acceptWriteData q s with R := r, out := o.join (acceptWriteData q s).out } := by
  have htarget : writeBeatTarget q { s with R := r, out := o } = writeBeatTarget q s := rfl
  simp only [acceptWriteData, htarget]
  cases s.inp.wvalid with
  | false => rfl
  | true => cases writeBeatTarget q s <;> rfl

theorem respondWrite_with_R_out (s : State) (r : ReadReg) (o : FabricWires) :
    respondWrite { s with R := r, out := o } = { respondWrite s with R := r, out := o.join (respondWrite s).out } := by
  unfold respondWrite
  cases s.inp.bready <;> rfl

/-- The write engine's part passes the read register through, and drives the write channels' wires anew. -/
theorem writePart_with_R_out (s : State) (r : ReadReg) (o : FabricWires) :
    writePart { s with R := r, out := o } = { writePart s with R := r, out := o.join (writePart s).out } := by
  cases hs : s.W.state with
  | acceptingData =>
    rw [writePart_data s hs, ← acceptWriteData_with_R_out]
    exact writePart_data { s with R := r, out := o } hs
  | responding =>
    rw [writePart_responding s hs, ← respondWrite_with_R_out]
    exact writePart_responding { s with R := r, out := o } hs
  | idle =>
    cases hv : s.inp.awvalid with
    | true =>
      rw [writePart_accept s hs hv]
      exact writePart_accept { s with R := r, out := o } hs hv
    | false =>
      rw [writePart_wait s hs hv]
      exact writePart_wait { s with R := r, out := o } hs hv

/-- The write engine's part leaves the read channels' wires. -/
theorem writePart_out_join (s : State) : s.out.join (writePart s).out = (writePart s).out :=
  (congrArg State.out (writePart_with_R_out s s.R s.out)).symm

theorem writePart_with_R (s : State) (r : ReadReg) : writePart { s with R := r } = { writePart s with R := r } := by
  rw [writePart_with_R_out s r s.out, writePart_out_join]

theorem writePart_with_out (s : State) (o : FabricWires) :
    writePart { s with out := o } = { writePart s with out := o.join (writePart s).out } := by
  obtain ⟨-, hR, -⟩ := writePart_frame s
  rw [writePart_with_R_out s s.R o, ← hR]

/-- After both evaluations every wire is driven anew. -/
theorem writePart_readPart_with_out (s : State) (o : FabricWires) :
    writePart (readPart { s with out := o }) = writePart (readPart s) := by
  have h : ∀ o, writePart (readPart { s with out := o }) =
      { writePart (readPart s) with out := (readPart s).out.join (writePart (readPart s)).out } := fun o => by
    rw [readPart_with_out, writePart_with_out, FabricWires.join_join_left]
  exact (h o).trans (h s.out).symm

/-! ## An idle engine's register (R26) -/

/-- An idle read engine's evaluation, with other register contents: only the register differs, and after an acceptance only its
cache. -/
theorem readPart_idle_with_R (s : State) (r : ReadReg) (hs : s.R.state = .idle) (hr : r.state = .idle) :
    readPart { s with R := r } =
      { readPart s with R := if s.inp.arvalid then { (readPart s).R with cache := r.cache } else r } := by
  cases hv : s.inp.arvalid with
  | true =>
    rw [readPart_accept s hs hv]
    exact readPart_accept { s with R := r } hr hv
  | false =>
    rw [readPart_wait s hs hv]
    exact readPart_wait { s with R := r } hr hv

/-- An idle write engine's evaluation, with other register contents: only the register differs, and after an acceptance only its
pending response. -/
theorem writePart_idle_with_W (s : State) (w : WriteReg) (hs : s.W.state = .idle) (hw : w.state = .idle) :
    writePart { s with W := w } =
      { writePart s with W := if s.inp.awvalid then { (writePart s).W with pending := w.pending } else w } := by
  cases hv : s.inp.awvalid with
  | true =>
    rw [writePart_accept s hs hv]
    exact writePart_accept { s with W := w } hw hv
  | false =>
    rw [writePart_wait s hs hv]
    exact writePart_wait { s with W := w } hw hv

/-- An edge from other contents of an idle read engine's register ends in the same state but for that register. -/
theorem step_idle_with_R (s t : State) (r : ReadReg) (hstep : step s = .next t) (hs : s.R.state = .idle)
    (hr : r.state = .idle) :
    step { s with R := r } = .next { t with R := if s.inp.arvalid then { t.R with cache := r.cache } else r } := by
  obtain rfl := (step_eq_next_iff s t).mp hstep
  obtain ⟨-, hR, -⟩ := writePart_frame (readPart (beginEdge s))
  have hbegin : beginEdge { s with R := r } = { beginEdge s with R := r } := rfl
  rw [step_eq, hbegin, readPart_idle_with_R (beginEdge s) r hs hr, writePart_with_R, endEdge_R, hR]
  rfl

/-- An edge from other contents of an idle write engine's register ends in the same state but for that register. -/
theorem step_idle_with_W (s t : State) (w : WriteReg) (hstep : step s = .next t) (hs : s.W.state = .idle)
    (hw : w.state = .idle) :
    step { s with W := w } = .next { t with W := if s.inp.awvalid then { t.W with pending := w.pending } else w } := by
  obtain rfl := (step_eq_next_iff s t).mp hstep
  obtain ⟨-, hW, hinp, -⟩ := readPart_frame (beginEdge s)
  have hbegin : beginEdge { s with W := w } = { beginEdge s with W := w } := rfl
  have hidle : (readPart (beginEdge s)).W.state = .idle := by rw [hW]; exact hs
  rw [step_eq, hbegin, readPart_with_W, writePart_idle_with_W _ w hidle hw, hinp]
  rfl

/-! ## Where a live slot comes from -/

/-- Clearing makes no slot live. -/
theorem Monitor.invalidate_live (m : Monitor) (a : Addr) (s : SizeField) (n : Nat) (r : Slot)
    (h : (m.invalidateConflicting a s).slots[n]? = some r) (hr : r.valid = true) : m.slots[n]? = some r := by
  rw [Monitor.invalidate_getElem?, Option.map_eq_some_iff] at h
  obtain ⟨u, hu, hur⟩ := h
  split at hur
  · subst hur
    cases hr
  · rw [hu, hur]

/-- A reservation writes one slot: any slot is then as before or the one reserved (R151). -/
theorem Monitor.reserve_getElem? (m : Monitor) (a : Addr) (s : SizeField) (n : Nat) (r : Slot)
    (h : (m.reserve a s).slots[n]? = some r) : m.slots[n]? = some r ∨ r = { valid := true, addr := a, size := s } := by
  have hset : ∃ i, (m.reserve a s).slots = m.slots.set i { valid := true, addr := a, size := s } := by
    unfold Monitor.reserve
    split <;> exact ⟨_, rfl⟩
  obtain ⟨i, hi⟩ := hset
  rw [hi, List.getElem?_set] at h
  split at h
  · split at h
    · exact .inr (Option.some.inj h).symm
    · cases h
  · exact .inl h

/-- The write engine's part makes no slot live. -/
theorem writePart_live (s : State) (n : Nat) (r : Slot) (h : (writePart s).M.slots[n]? = some r)
    (hr : r.valid = true) : s.M.slots[n]? = some r := by
  rcases writePart_cases s with ⟨-, -, hM⟩ | ⟨-, -, -, hM, -⟩ | ⟨-, -, p, -, hM, -⟩ <;> rw [hM] at h
  · exact h
  · exact h
  · exact Monitor.invalidate_live _ _ _ n r h hr

end Sys2Proof.Machine
end

section
/-!
PROOFS. The invariant (10_state.md R31) as four parts, one for each component of the state it speaks of, and what keeps each.
-/

namespace Sys2Proof.Safety

open Sys2Proof.Machine

/-- The invariant's part about the read register. -/
structure ReadRegOk (p : Params) (r : ReadReg) : Prop where
  cacheOnlySending : r.cache ≠ none → r.state = .sending
  beatWithinLen : r.state = .sending → r.beat ≤ r.len.toNat
  idFits : r.id < 2 ^ p.idWidth

/-- The invariant's part about the write register. -/
structure WriteRegOk (p : Params) (w : WriteReg) : Prop where
  idFits : w.id < 2 ^ p.idWidth
  responseLegal : w.state = .responding → w.pending ≠ .slverr ∧ (w.pending = .exokay → w.lock = true)

/-- The invariant's part about the monitor. -/
structure MonitorOk (p : Params) (m : Monitor) : Prop where
  slotCount : m.slots.length = p.capacity
  cursorInTable : m.cursor < p.capacity

/-- The four parts are the invariant. -/
theorem invariant_iff (s : State) :
    Invariant s ↔
      ReadRegOk s.params s.R ∧ WriteRegOk s.params s.W ∧ MonitorOk s.params s.M ∧ registryWf s.registry := by
  constructor
  · rintro ⟨hcache, hbeat, hslots, hcursor, hrid, hwid, hresp, hmem⟩
    exact ⟨⟨hcache, hbeat, hrid⟩, ⟨hwid, hresp⟩, ⟨hslots, hcursor⟩, hmem⟩
  · rintro ⟨⟨hcache, hbeat, hrid⟩, ⟨hwid, hresp⟩, ⟨hslots, hcursor⟩, hmem⟩
    exact ⟨hcache, hbeat, hslots, hcursor, hrid, hwid, hresp, hmem⟩

/-- A latched id fits its wire (R81). -/
theorem fitId_lt (p : Params) (id : TxnId) : p.fitId id < 2 ^ p.idWidth := Nat.mod_lt _ (Nat.two_pow_pos _)

/-! ## The monitor -/

theorem MonitorOk.reserve {p : Params} {m : Monitor} (h : MonitorOk p m) (a : Addr) (s : SizeField) :
    MonitorOk p (m.reserve a s) where
  slotCount := (m.reserve_length a s).trans h.slotCount
  cursorInTable := by
    have hc := h.cursorInTable
    rw [← h.slotCount] at hc ⊢
    exact m.reserve_cursor_lt a s hc

theorem MonitorOk.invalidate {p : Params} {m : Monitor} (h : MonitorOk p m) (a : Addr) (s : SizeField) :
    MonitorOk p (m.invalidateConflicting a s) where
  slotCount := (m.invalidate_length a s).trans h.slotCount
  cursorInTable := h.cursorInTable

theorem readPart_monitorOk (s : State) (h : MonitorOk s.params s.M) : MonitorOk s.params (readPart s).M := by
  rcases readPart_M s with hM | ⟨-, -, -, -, hM⟩ <;> rw [hM]
  · exact h
  · exact h.reserve _ _

theorem writePart_monitorOk (s : State) (h : MonitorOk s.params s.M) : MonitorOk s.params (writePart s).M := by
  rcases writePart_cases s with ⟨-, -, hM⟩ | ⟨-, -, -, hM, -⟩ | ⟨-, -, p, -, hM, -⟩ <;> rw [hM]
  · exact h
  · exact h
  · exact h.invalidate _ _

/-! ## The read register -/

/-- A beat moves on only while it is not the last (R189), so it stays within `len`. -/
theorem sendRead_readRegOk (s : State) (h : ReadRegOk s.params s.R) (hs : s.R.state = .sending) :
    ReadRegOk s.params (sendRead (readLatched s.R) s).R := by
  have hle := h.beatWithinLen hs
  rcases sendRead_R (readLatched s.R) s with ⟨-, c, hR⟩ | ⟨-, -, hR⟩ | ⟨-, -, hne, hR⟩ <;> rw [hR]
  · exact ⟨fun _ => hs, fun _ => hle, h.idFits⟩
  · exact ⟨fun hc => absurd rfl hc, fun hc => (nomatch hc), h.idFits⟩
  · exact ⟨fun hc => absurd rfl hc, fun _ => Nat.lt_of_le_of_ne hle hne, h.idFits⟩

theorem readPart_readRegOk (s : State) (h : ReadRegOk s.params s.R) : ReadRegOk s.params (readPart s).R := by
  cases hs : s.R.state with
  | sending =>
    rw [readPart_sending s hs]
    exact sendRead_readRegOk s h hs
  | idle =>
    cases hv : s.inp.arvalid with
    | true =>
      rw [readPart_accept s hs hv]
      exact ⟨fun _ => rfl, fun _ => Nat.zero_le _, fitId_lt _ _⟩
    | false =>
      rw [readPart_wait s hs hv]
      exact h

/-! ## The write register -/

/-- The responses a data beat makes due are OKAY, EXOKAY for a locked write, and DECERR. -/
theorem acceptWriteData_writeRegOk (s : State) (h : WriteRegOk s.params s.W) :
    WriteRegOk s.params (acceptWriteData (writeLatched s.W) s).W := by
  rcases acceptWriteData_W (writeLatched s.W) s with hW | hW | ⟨hit, hW | hW⟩ <;> rw [hW]
  · exact h
  · exact ⟨h.idFits, fun _ => ⟨nofun, nofun⟩⟩
  · exact ⟨h.idFits, fun _ => writeBeatResp_legal s.W.lock hit⟩
  · exact ⟨h.idFits, fun _ => writeBeatResp_legal s.W.lock hit⟩

theorem writePart_writeRegOk (s : State) (h : WriteRegOk s.params s.W) : WriteRegOk s.params (writePart s).W := by
  cases hs : s.W.state with
  | idle =>
    cases hv : s.inp.awvalid with
    | true =>
      rw [writePart_accept s hs hv]
      exact ⟨fitId_lt _ _, nofun⟩
    | false =>
      rw [writePart_wait s hs hv]
      exact h
  | acceptingData =>
    rw [writePart_data s hs]
    exact acceptWriteData_writeRegOk s h
  | responding =>
    rw [writePart_responding s hs, respondWrite_W]
    split
    · exact ⟨h.idFits, nofun⟩
    · exact h

/-! ## One edge -/

theorem beginEdge_invariant (s : State) (h : Invariant s) : Invariant (beginEdge s) := by
  rw [invariant_iff] at h ⊢
  obtain ⟨hR, hW, hM, hmem⟩ := h
  exact ⟨hR, hW, hM, registryWf_stepDevices _ _ _ hmem⟩

theorem readPart_invariant (s : State) (h : Invariant s) : Invariant (readPart s) := by
  obtain ⟨hp, hWeq, -, -, -⟩ := readPart_frame s
  rw [invariant_iff] at h ⊢
  obtain ⟨hR, hW, hM, hmem⟩ := h
  rw [hp, hWeq]
  exact ⟨readPart_readRegOk s hR, hW, readPart_monitorOk s hM, readPart_registryWf s hmem⟩

theorem writePart_invariant (s : State) (h : Invariant s) : Invariant (writePart s) := by
  obtain ⟨hp, hReq, -, -, -⟩ := writePart_frame s
  rw [invariant_iff] at h ⊢
  obtain ⟨hR, hW, hM, hmem⟩ := h
  rw [hp, hReq]
  exact ⟨hR, writePart_writeRegOk s hW, writePart_monitorOk s hM, writePart_registryWf s hmem⟩

/-- The wires of the next edge are no part of the invariant. -/
theorem endEdge_invariant (s : State) (h : Invariant s) : Invariant (endEdge s) := by
  rw [invariant_iff] at h ⊢
  exact h

/-! ## Construction -/

theorem construct_invariant (p : Params) (reg : List Registration) (hp : 0 < p.capacity) (hreg : registryWf reg) :
    Invariant (State.construct p reg) := by
  rw [invariant_iff]
  refine ⟨⟨fun hc => absurd rfl hc, nofun, Nat.two_pow_pos _⟩, ⟨Nat.two_pow_pos _, nofun⟩, ⟨?_, hp⟩, hreg⟩
  exact List.length_replicate

end Sys2Proof.Safety
end

section
/-!
PROOFS. The statements of 10_state.md.
-/

namespace Sys2Proof.Proofs

open Sys2Proof.Machine Sys2Proof.Safety

/-- Settles O57: each of the four actions of an edge keeps the invariant. -/
theorem everyStepKeepsTheInvariant : Obligations.EveryStepKeepsTheInvariant := by
  intro s t hI hstep
  obtain rfl := (step_eq_next_iff s t).mp hstep
  exact endEdge_invariant _ (writePart_invariant _ (readPart_invariant _ (beginEdge_invariant s hI)))

/-- Settles O41: the write engine makes no slot live, and the read engine only by its reservation. -/
theorem newReservationsComeFromLockedReads : Obligations.NewReservationsComeFromLockedReads := by
  intro s t n r hstep hslot hlive hnew
  obtain rfl := (step_eq_next_iff s t).mp hstep
  have hread : (readPart (beginEdge s)).M.slots[n]? = some r := writePart_live _ n r hslot hlive
  rcases readPart_M (beginEdge s) with hM | ⟨hs, hready, hlock, -, hM⟩ <;> rw [hM] at hread
  · exact absurd hread hnew
  · rcases Monitor.reserve_getElem? _ _ _ n r hread with hold | hr
    · exact absurd hold hnew
    · exact ⟨hs, hready, hlock, hr⟩

/-- Settles O47: an idle engine's evaluation passes its register through to the register alone, and the other engine's evaluation
does not see that register. -/
theorem idleRegistersMakeNoDifference : Obligations.IdleRegistersMakeNoDifference := by
  intro s t r w hstep
  constructor
  · intro hs hr
    refine ⟨_, step_idle_with_R s t r hstep hs hr, rfl, rfl, rfl, rfl, ?_, ?_⟩ <;> intro hv <;> simp [hv]
  · intro hs hw
    refine ⟨_, step_idle_with_W s t w hstep hs hw, rfl, rfl, rfl, rfl, ?_, ?_⟩ <;> intro hv <;> simp [hv]

/-- Settles O52: each of the four actions of an edge leaves bases, lengths and parameters. -/
theorem registryAndParametersNeverChange : Obligations.RegistryAndParametersNeverChange := by
  intro s t hstep
  obtain rfl := (step_eq_next_iff s t).mp hstep
  obtain ⟨hwrite, -⟩ := writePart_frame (readPart (beginEdge s))
  obtain ⟨hread, -⟩ := readPart_frame (beginEdge s)
  exact ⟨(writePart_ranges _).trans ((readPart_ranges _).trans (beginEdge_ranges s)), hwrite.trans hread⟩

/-- Settles O48: the two evaluations drive every wire anew. -/
theorem outputsAreNotState : Obligations.OutputsAreNotState := by
  intro s o
  have hbegin : beginEdge { s with out := o } = { beginEdge s with out := o } := rfl
  rw [step_eq, step_eq, hbegin, writePart_readPart_with_out]

/-- Settles O55: construction sets every field R32 names, the slots as copies of one invalid slot. -/
theorem resetLeavesWhatTheSpecSays : Obligations.ResetLeavesWhatTheSpecSays := by
  refine ⟨fun p reg => ⟨rfl, rfl, rfl, List.length_replicate, fun t ht => ?_, rfl, rfl, rfl⟩, rfl, rfl, rfl, rfl, rfl⟩
  rw [List.eq_of_mem_replicate ht]

/-- Settles O56: the invariant's four parts hold at construction, and reset is one. -/
theorem constructionMeetsTheInvariant : Obligations.ConstructionMeetsTheInvariant :=
  ⟨construct_invariant, construct_invariant Params.default [] (by decide) nofun⟩

end Sys2Proof.Proofs
end

section
/-!
PROOFS. The data of a `TRAM` read, lane by lane (95_test_vectors.md section 1): the sum of the shifted bytes as bits, and the
statement of 20_memory.md about it.
-/

namespace Sys2Proof.Machine

/-! ## Lanes of the sum -/

/-- Bytes past the end read as 0, so a lane's two reasons to be 0 join into one condition. -/
theorem ite_tramByte (length : Nat) (mem : Memory) (x : Nat) (p : Prop) [Decidable p] :
    (if p then tramByte length mem x else 0) = if p ∧ x < length then mem.read x else 0 := by
  rw [tramByte, ite_and]

/-- The bytes below lane `n` do not reach bit `8n`, so adding lane `n` carries into no other lane. -/
theorem tramSum_lt (length : Nat) (mem : Memory) (off n : Nat) : tramSum length mem off n < 2 ^ (8 * n) := by
  induction n with
  | zero => exact Nat.one_pos
  | succ n ih =>
    have hbyte : (tramByte length mem (off + n)).toNat < 2 ^ 8 := BitVec.isLt _
    calc tramSum length mem off (n + 1)
        < 2 ^ (8 * n) + (tramByte length mem (off + n)).toNat * 2 ^ (8 * n) := Nat.add_lt_add_right ih _
      _ = ((tramByte length mem (off + n)).toNat + 1) * 2 ^ (8 * n) := by ring
      _ ≤ 2 ^ 8 * 2 ^ (8 * n) := Nat.mul_le_mul_right _ hbyte
      _ = 2 ^ (8 * (n + 1)) := by ring

/-- Bit `i` of lane `lane` of the sum is bit `i` of the byte of that lane; lanes beyond the access are 0. -/
theorem testBit_tramSum (length : Nat) (mem : Memory) (off n lane i : Nat) (hi : i < 8) :
    (tramSum length mem off n).testBit (8 * lane + i) =
      (if lane < n then tramByte length mem (off + lane) else 0).getLsbD i := by
  induction n with
  | zero => simp [tramSum]
  | succ n ih =>
    have hsum : tramSum length mem off (n + 1) =
        2 ^ (8 * n) * (tramByte length mem (off + n)).toNat + tramSum length mem off n := by
      rw [tramSum, Nat.add_comm, Nat.mul_comm]
    rw [hsum, Nat.testBit_two_pow_mul_add _ (tramSum_lt length mem off n)]
    rcases Nat.lt_trichotomy lane n with hlt | rfl | hgt
    · rw [if_pos (by omega), ih, if_pos hlt, if_pos (Nat.lt_succ_of_lt hlt)]
    · rw [if_neg (by omega), if_pos (Nat.lt_succ_self lane), Nat.add_sub_cancel_left]
      rfl
    · rw [if_neg (by omega), if_neg (by omega)]
      exact (BitVec.getLsbD_of_ge _ _ (by omega)).trans BitVec.getLsbD_zero.symm

/-- A lane of the data wires shows its byte of the sum: the cut to 64 bits removes none of the eight lanes. -/
theorem tramSum_lane (length : Nat) (mem : Memory) (off n lane : Nat) (hlane : lane < 8) :
    (BitVec.ofNat 64 (tramSum length mem off n)).extractLsb' (8 * lane) 8 =
      if lane < n then tramByte length mem (off + lane) else 0 := by
  refine BitVec.eq_of_getLsbD_eq fun i hi => ?_
  have hbit : 8 * lane + i < 64 := by omega
  rw [BitVec.getLsbD_extractLsb', BitVec.getLsbD_ofNat, testBit_tramSum length mem off n lane i hi]
  simp only [hi, hbit, decide_true, Bool.true_and]

end Sys2Proof.Machine
end

section
/-!
PROOFS. The statements of 20_memory.md.
-/

namespace Sys2Proof.Proofs

open Sys2Proof.Machine

/-- Settles O34: the value's lanes are those of the sum of the shifted bytes. -/
theorem ramReadIsLittleEndian : Obligations.RamReadIsLittleEndian := by
  intro length mem off size
  refine ⟨rfl, fun lane hlane => ?_⟩
  calc ((Device.tram length mem).read off size).1.extractLsb' (8 * lane) 8
      = if lane < 2 ^ size.toNat then tramByte length mem (off.toNat + lane) else 0 :=
        tramSum_lane length mem off.toNat _ lane hlane
    _ = _ := ite_tramByte length mem (off.toNat + lane) _

end Sys2Proof.Proofs
end

section
/-!
PROOFS. The decoder by its four kind bits and its operands (30_encoding.md R89, R90), and the two round trips on descriptors.
-/

namespace Sys2Proof

open Sys2Proof.Laws

/-! ## The kind bits of a descriptor (R89) -/

theorem descDir_eq_kindBit (d : BitVec 16) : descDir d = (d.extractLsb' 12 4).getLsbD 3 := by simp [descDir]

theorem descLock_eq_kindBit (d : BitVec 16) : descLock d = (d.extractLsb' 12 4).getLsbD 2 := by simp [descLock]

theorem descBurst_eq_kindBits (d : BitVec 16) : descBurst d = (d.extractLsb' 12 4).extractLsb' 0 2 := by
  refine BitVec.eq_of_getLsbD_eq fun i hi => ?_
  have hlow : i < 4 := by omega
  simp [descBurst, hi, hlow]

theorem kindBits_dir (i : Instr) : (Encoding.kindBits i).getLsbD 3 = i.request.dir := by
  cases i <;> simp [Encoding.kindBits, Instr.request]

theorem kindBits_lock (i : Instr) : (Encoding.kindBits i).getLsbD 2 = i.request.lock := by
  cases i <;> simp [Encoding.kindBits, Instr.request]

theorem kindBits_burst (i : Instr) : (Encoding.kindBits i).extractLsb' 0 2 = i.request.burst := by
  cases i <;> simp [Encoding.kindBits, Instr.request, BurstMode.code, badBurstCode]

/-! ## Decoding -/

/-- The decoder's answer is the request that has the descriptor's direction, lock and burst value, and its operands. -/
theorem decodeDescriptor_eq_of_fields (d : BitVec 16) (i : Instr) (hdir : descDir d = i.request.dir)
    (hlock : descLock d = i.request.lock) (hburst : descBurst d = i.request.burst)
    (hsize : (descSize d).toNat = i.size) (hlen : (descLen d).toNat = i.len) : decodeDescriptor d = i := by
  simp only [decodeDescriptor, hdir, hlock, hburst, hsize, hlen]
  cases i <;> rfl

/-- The four kind bits are the direction, the lock and the burst value, so they select the kind (R89). -/
theorem decodeDescriptor_eq_of_kindBits (d : BitVec 16) (i : Instr) (hkind : d.extractLsb' 12 4 = Encoding.kindBits i)
    (hsize : (descSize d).toNat = i.size) (hlen : (descLen d).toNat = i.len) : decodeDescriptor d = i := by
  refine decodeDescriptor_eq_of_fields d i ?_ ?_ ?_ hsize hlen
  · rw [descDir_eq_kindBit, hkind, kindBits_dir]
  · rw [descLock_eq_kindBit, hkind, kindBits_lock]
  · rw [descBurst_eq_kindBits, hkind, kindBits_burst]

@[simp] theorem decodeDescriptor_size (d : BitVec 16) : (decodeDescriptor d).size = (descSize d).toNat := by
  unfold decodeDescriptor
  split <;> rfl

@[simp] theorem decodeDescriptor_len (d : BitVec 16) : (decodeDescriptor d).len = (descLen d).toNat := by
  unfold decodeDescriptor
  split <;> rfl

theorem Instr.wellFormed_iff (i : Instr) : i.wellFormed = true ↔ i.size < 2 ^ 3 ∧ i.len < 2 ^ 8 := by
  simp [Instr.wellFormed, Instr.sizeFits, Instr.lenFits]

/-- The operands come out of fields of their own width, so they fit it. -/
theorem decodeDescriptor_wellFormed (d : BitVec 16) : (decodeDescriptor d).wellFormed = true := by
  rw [Instr.wellFormed_iff, decodeDescriptor_size, decodeDescriptor_len]
  exact ⟨(descSize d).isLt, (descLen d).isLt⟩

/-! ## Round trips -/

theorem Instr.request_size (i : Instr) : i.request.size = BitVec.ofNat 3 i.size := by cases i <;> rfl

theorem Instr.request_len (i : Instr) : i.request.len = BitVec.ofNat 8 i.len := by cases i <;> rfl

/-- The decoder reads the fields the encoder packs, and an operand that fits its field is not cut. -/
theorem decodeDescriptor_encodeDescriptor (i : Instr) (h : i.wellFormed = true) :
    decodeDescriptor (encodeDescriptor i) = i := by
  obtain ⟨hsize, hlen⟩ := (Instr.wellFormed_iff i).mp h
  refine decodeDescriptor_eq_of_fields _ i (descDir_pack ..) (descLock_pack ..) (descBurst_pack ..) ?_ ?_
  · rw [encodeDescriptor, Request.descriptor, descSize_pack, i.request_size, BitVec.toNat_ofNat, Nat.mod_eq_of_lt hsize]
  · rw [encodeDescriptor, Request.descriptor, descLen_pack, i.request_len, BitVec.toNat_ofNat, Nat.mod_eq_of_lt hlen]

/-- A descriptor is its fields packed, but for bit 11, which packing clears. -/
theorem packDescriptor_fields (d : BitVec 16) (hz : d.getLsbD 11 = false) :
    packDescriptor (descDir d) (descLock d) (descBurst d) (descSize d) (descLen d) = d := by
  refine BitVec.eq_of_getLsbD_eq fun i hi => ?_
  rw [packDescriptor_getLsbD]
  split_ifs with h15 h14 h12 h11 h8
  · simp [descLen, h8]
  · have hsize : i - 8 < 3 := by omega
    simp [descSize, hsize, show 8 + (i - 8) = i by omega]
  · obtain rfl : i = 11 := by omega
    exact hz.symm
  · have hburst : i - 12 < 2 := by omega
    simp [descBurst, hburst, show 12 + (i - 12) = i by omega]
  · obtain rfl : i = 14 := by omega
    simp [descLock]
  · obtain rfl : i = 15 := by omega
    simp [descDir]

end Sys2Proof
end

section
/-!
PROOFS. Which wires of the master an evaluation reads (30_encoding.md R91), and which responses it can drive (R86).
-/

namespace Sys2Proof.Machine

open Sys2Proof.Safety

/-! ## Inputs that are not read (R91) -/

theorem acceptRead_with_inp (s : State) (w : MasterWires) (haddr : s.inp.araddr = w.araddr) (hid : s.inp.arid = w.arid)
    (hreq : readOffered s.inp = readOffered w) :
    acceptRead (readOffered w) { s with inp := w } = { acceptRead (readOffered s.inp) s with inp := w } := by
  simp only [acceptRead, haddr, hid, hreq]
  rfl

theorem presentReadBeat_with_inp (q : Request) (k : Nat) (off : Addr) (s : State) (w : MasterWires) :
    presentReadBeat q k off { s with inp := w } = { presentReadBeat q k off s with inp := w } := by
  unfold presentReadBeat
  cases s.R.cache <;> rfl

theorem sendRead_with_inp (q : Request) (s : State) (w : MasterWires) (hready : s.inp.rready = w.rready) :
    sendRead q { s with inp := w } = { sendRead q s with inp := w } := by
  have htarget : readBeatTarget q { s with inp := w } = readBeatTarget q s := rfl
  simp only [sendRead, htarget, hready]
  cases readBeatTarget q s with
  | none => cases w.rready <;> rfl
  | some p => simp only [presentReadBeat_with_inp]; cases w.rready <;> rfl

/-- The read engine's part depends on no wire but those R91 lists for its state. -/
theorem readPart_with_inp (s : State) (w : MasterWires) (h : readWiresAgree s.R.state s.inp w) :
    readPart { s with inp := w } = { readPart s with inp := w } := by
  cases hs : s.R.state with
  | sending =>
    rw [hs] at h
    rw [readPart_sending s hs, ← sendRead_with_inp _ s w h]
    exact readPart_sending { s with inp := w } hs
  | idle =>
    rw [hs] at h
    obtain ⟨hvalid, hpayload⟩ := h
    cases hv : s.inp.arvalid with
    | true =>
      obtain ⟨haddr, hsize, hburst, hid, hlen, hlock⟩ := hpayload hv
      have hreq : readOffered s.inp = readOffered w := by simp only [readOffered, hsize, hburst, hlen, hlock]
      rw [readPart_accept s hs hv, ← acceptRead_with_inp s w haddr hid hreq]
      exact readPart_accept { s with inp := w } hs (hvalid.symm.trans hv)
    | false =>
      rw [readPart_wait s hs hv]
      exact readPart_wait { s with inp := w } hs (hvalid.symm.trans hv)

theorem acceptWrite_with_inp (s : State) (w : MasterWires) (haddr : s.inp.awaddr = w.awaddr) (hid : s.inp.awid = w.awid)
    (hreq : writeOffered s.inp = writeOffered w) :
    acceptWrite (writeOffered w) { s with inp := w } = { acceptWrite (writeOffered s.inp) s with inp := w } := by
  simp only [acceptWrite, haddr, hid, hreq]
  rfl

theorem takeWriteBeat_with_inp (q : Request) (a : Addr) (k : Nat) (off : Addr) (s : State) (w : MasterWires)
    (hdata : s.inp.wdata = w.wdata) (hstrb : s.inp.wstrb = w.wstrb) (hlast : s.inp.wlast = w.wlast) :
    takeWriteBeat q a k off { s with inp := w } = { takeWriteBeat q a k off s with inp := w } := by
  simp only [takeWriteBeat, hdata, hstrb, hlast]

theorem acceptWriteData_with_inp (q : Request) (s : State) (w : MasterWires)
    (h : writeWiresAgree .acceptingData s.inp w) :
    acceptWriteData q { s with inp := w } = { acceptWriteData q s with inp := w } := by
  obtain ⟨hvalid, hpayload⟩ := h
  have htarget : writeBeatTarget q { s with inp := w } = writeBeatTarget q s := rfl
  cases hv : s.inp.wvalid with
  | false =>
    rw [acceptWriteData_none q s hv]
    exact acceptWriteData_none q { s with inp := w } (hvalid.symm.trans hv)
  | true =>
    obtain ⟨hdata, hstrb, hlast⟩ := hpayload hv
    have hv' : w.wvalid = true := hvalid.symm.trans hv
    cases ht : writeBeatTarget q s with
    | none =>
      rw [acceptWriteData_invalid q s ht hv]
      exact acceptWriteData_invalid q { s with inp := w } (htarget.trans ht) hv'
    | some p =>
      rw [acceptWriteData_valid q s p.1 p.2 ht hv]
      exact (acceptWriteData_valid q { s with inp := w } p.1 p.2 (htarget.trans ht) hv').trans
        (takeWriteBeat_with_inp q _ p.1 p.2 (driveWriteOpen s false true) w hdata hstrb hlast)

theorem respondWrite_with_inp (s : State) (w : MasterWires) (hready : s.inp.bready = w.bready) :
    respondWrite { s with inp := w } = { respondWrite s with inp := w } := by
  simp only [respondWrite, hready]
  cases w.bready <;> rfl

/-- The write engine's part depends on no wire but those R91 lists for its state. -/
theorem writePart_with_inp (s : State) (w : MasterWires) (h : writeWiresAgree s.W.state s.inp w) :
    writePart { s with inp := w } = { writePart s with inp := w } := by
  cases hs : s.W.state with
  | acceptingData =>
    rw [hs] at h
    rw [writePart_data s hs, ← acceptWriteData_with_inp _ s w h]
    exact writePart_data { s with inp := w } hs
  | responding =>
    rw [hs] at h
    rw [writePart_responding s hs, ← respondWrite_with_inp s w h]
    exact writePart_responding { s with inp := w } hs
  | idle =>
    rw [hs] at h
    obtain ⟨hvalid, hpayload⟩ := h
    cases hv : s.inp.awvalid with
    | true =>
      obtain ⟨haddr, hsize, hburst, hid, hlen, hlock⟩ := hpayload hv
      have hreq : writeOffered s.inp = writeOffered w := by simp only [writeOffered, hsize, hburst, hlen, hlock]
      rw [writePart_accept s hs hv, ← acceptWrite_with_inp s w haddr hid hreq]
      exact writePart_accept { s with inp := w } hs (hvalid.symm.trans hv)
    | false =>
      rw [writePart_wait s hs hv]
      exact writePart_wait { s with inp := w } hs (hvalid.symm.trans hv)

/-- An edge with another sample that agrees on what each engine reads: `endEdge` replaces the sample, so nothing differs. -/
theorem step_with_inp (s : State) (w : MasterWires) (hread : readWiresAgree s.R.state s.inp w)
    (hwrite : writeWiresAgree s.W.state s.inp w) : step { s with inp := w } = step s := by
  have hbegin : beginEdge { s with inp := w } = { beginEdge s with inp := w } := rfl
  obtain ⟨-, hW, hinp, -, -⟩ := readPart_frame (beginEdge s)
  have hwrite' : writeWiresAgree (readPart (beginEdge s)).W.state (readPart (beginEdge s)).inp w := by
    rw [hW, hinp]
    exact hwrite
  rw [step_eq, step_eq, hbegin, readPart_with_inp (beginEdge s) w hread, writePart_with_inp _ w hwrite']
  rfl

/-! ## Responses on the wires (R86) -/

theorem respCode_ne_slverr (r : Resp) (h : r ≠ .slverr) : r.code ≠ 0b10#2 := by
  cases r with
  | slverr => exact absurd rfl h
  | okay => decide
  | exokay => decide
  | decerr => decide

theorem readBeatResp_ne_slverr (lock : Bool) : readBeatResp lock ≠ .slverr := by
  cases lock <;> decide

theorem presentReadBeat_out_rresp (q : Request) (k : Nat) (off : Addr) (s : State) :
    (presentReadBeat q k off s).out.rresp = (readBeatResp q.lock).code := by
  unfold presentReadBeat
  split <;> rfl

/-- The response of a read beat: that of its lock when it has a device, else DECERR (R185, R187). -/
theorem sendRead_out_rresp (q : Request) (s : State) :
    (sendRead q s).out.rresp =
      (if (readBeatTarget q s).isSome then readBeatResp q.lock else Resp.decerr).code := by
  unfold sendRead
  cases readBeatTarget q s with
  | none => cases s.inp.rready <;> rfl
  | some p => cases s.inp.rready <;> exact presentReadBeat_out_rresp q p.1 p.2 s

/-- A valid read beat does not carry SLAVE-ERROR. -/
theorem readPart_out_rresp_ne (s : State) (h : (readPart s).out.rvalid = true) :
    (readPart s).out.rresp ≠ 0b10#2 := by
  cases hs : s.R.state with
  | idle =>
    cases hv : s.inp.arvalid with
    | true => rw [readPart_accept s hs hv] at h; cases h
    | false => rw [readPart_wait s hs hv] at h; cases h
  | sending =>
    rw [readPart_sending s hs, sendRead_out_rresp]
    apply respCode_ne_slverr
    split
    · exact readBeatResp_ne_slverr _
    · exact nofun

theorem acceptWriteData_out_bvalid (q : Request) (s : State) : (acceptWriteData q s).out.bvalid = false := by
  unfold acceptWriteData
  cases s.inp.wvalid <;> cases writeBeatTarget q s <;> rfl

/-- A valid write response is that of a `RESPONDING` engine: the pending one (R217). -/
theorem writePart_out_of_bvalid (s : State) (h : (writePart s).out.bvalid = true) :
    s.W.state = .responding ∧ (writePart s).out.bresp = s.W.pending.code := by
  cases hs : s.W.state with
  | idle =>
    cases hv : s.inp.awvalid with
    | true => rw [writePart_accept s hs hv] at h; cases h
    | false => rw [writePart_wait s hs hv] at h; cases h
  | acceptingData =>
    rw [writePart_data s hs, acceptWriteData_out_bvalid] at h
    cases h
  | responding =>
    rw [writePart_responding s hs]
    unfold respondWrite
    cases s.inp.bready <;> exact ⟨rfl, rfl⟩

end Sys2Proof.Machine
end

section
/-!
PROOFS. The statements of 30_encoding.md.
-/

namespace Sys2Proof.Proofs

open Sys2Proof.Machine Sys2Proof.Safety

/-- Settles O1: the bytes are put together again, and the decoder reads back the fields the encoder wrote. -/
theorem decodeEncodeRoundTrip : Obligations.DecodeEncodeRoundTrip := by
  intro i rest hwf
  rw [encode, decode_bytes, decodeDescriptor_encodeDescriptor i hwf]

/-- Settles O2: the decoded request has the descriptor's fields, which pack to the descriptor. -/
theorem encodeDecodeRoundTrip : Obligations.EncodeDecodeRoundTrip := by
  intro d hz
  rw [encodeDescriptor, decodeDescriptor_request]
  exact packDescriptor_fields d hz

/-- Settles O46: neither engine's evaluation depends on an unread wire, and the next sample replaces them all. -/
theorem unreadWiresMakeNoDifference : Obligations.UnreadWiresMakeNoDifference := by
  intro s v w hread hwrite
  exact (step_with_inp { s with inp := v } w hread hwrite).symm

/-- Settles O51: a read beat's response is OKAY, EXOKAY or DECERR by construction, and the invariant says so of the pending
response that a write returns. -/
theorem slaveErrorIsNeverDriven : Obligations.SlaveErrorIsNeverDriven := by
  refine ⟨⟨rfl, rfl, rfl, rfl⟩, fun s t hI hstep => ?_⟩
  obtain rfl := (step_eq_next_iff s t).mp hstep
  constructor
  · intro hvalid
    have hjoin := writePart_out_join (readPart (beginEdge s))
    rw [endEdge_out, ← hjoin] at hvalid ⊢
    exact readPart_out_rresp_ne (beginEdge s) hvalid
  · intro hvalid
    obtain ⟨-, hW, -⟩ := readPart_frame (beginEdge s)
    obtain ⟨hstate, hresp⟩ := writePart_out_of_bvalid _ hvalid
    rw [hW] at hstate hresp
    obtain ⟨hlegal, -⟩ := hI.responseLegal hstate
    rw [endEdge_out, hresp]
    exact respCode_ne_slverr _ hlegal

/-- Settles O3: each word's kind bits and operands are those of its request. -/
theorem descriptorsOfTheVectorsDecode : Obligations.DescriptorsOfTheVectorsDecode :=
  ⟨rfl, rfl, rfl, rfl, rfl, rfl, rfl, rfl, rfl, rfl⟩

/-- Settles O4: the decoder answers for every descriptor, with operands that fit. -/
theorem everyDescriptorIsARequest : Obligations.EveryDescriptorIsARequest :=
  fun b0 b1 _ => ⟨_, rfl, decodeDescriptor_wellFormed (descriptorOfBytes b0 b1)⟩

/-- Settles O5: a request of each kind, recognised by its kind bits. -/
theorem kindIsSelectedByBits15To12 : Obligations.KindIsSelectedByBits15To12 := by
  rintro d _ _ rfl rfl
  and_intros <;> exact fun hkind => decodeDescriptor_eq_of_kindBits d _ hkind rfl rfl

/-- Settles O6: the fields of each kind are its row of the table. -/
theorem requestFieldsOfEachKind : Obligations.RequestFieldsOfEachKind :=
  fun _ _ => ⟨rfl, rfl, rfl, rfl, rfl, rfl, rfl, rfl, rfl, rfl, rfl, rfl, rfl, rfl, rfl, rfl⟩

end Sys2Proof.Proofs
end

section
/-!
PROOFS. The address decoder (40_address_decoder.md): what the scan of R112 passes over, when it ends without a match, and
which devices an access leaves alone (R117).
-/

namespace Sys2Proof.Machine

open Sys2Proof.Safety

/-! ## Matching (R111) -/

theorem Registration.covers_iff (g : Registration) (a : Addr) :
    g.covers a = true ↔ (a - g.base).toNat < g.length.toNat :=
  decide_eq_true_iff

/-! ## The scan (R112) -/

/-- The registrations before the one found do not match. -/
theorem covers_eq_false_of_lt_busDecodeFrom (a : Addr) (k0 : Nat) (reg : List Registration) (k : Nat) (off : Addr)
    (hdec : busDecodeFrom a k0 reg = some (k, off)) (j : Nat) (hj : k0 + j < k) (h : Registration)
    (hget : reg[j]? = some h) : h.covers a = false := by
  induction reg generalizing k0 j with
  | nil => simp at hget
  | cons g rest ih =>
    rw [busDecodeFrom] at hdec
    split at hdec
    · obtain ⟨rfl, -⟩ : k0 = k ∧ a - g.base = off := by simpa using hdec
      omega
    · rename_i hg
      cases j with
      | zero =>
        obtain rfl : g = h := by simpa using hget
        simpa using hg
      | succ j => exact ih (k0 + 1) hdec j (by omega) (by simpa using hget)

/-- The scan ends without a match exactly when no registration matches. -/
theorem busDecodeFrom_eq_none_iff (a : Addr) (k0 : Nat) (reg : List Registration) :
    busDecodeFrom a k0 reg = none ↔ ∀ g ∈ reg, g.covers a = false := by
  induction reg generalizing k0 with
  | nil => simp [busDecodeFrom]
  | cons g rest ih =>
    rw [busDecodeFrom, List.forall_mem_cons]
    cases hg : g.covers a with
    | true => simp
    | false => simp [ih]

theorem covers_eq_false_of_lt_busDecode (reg : List Registration) (a : Addr) (k : Nat) (off : Addr)
    (hdec : busDecode reg a = some (k, off)) (j : Nat) (hj : j < k) (h : Registration) (hget : reg[j]? = some h) :
    h.covers a = false :=
  covers_eq_false_of_lt_busDecodeFrom a 0 reg k off hdec j (by omega) h hget

theorem busDecode_eq_none_iff (reg : List Registration) (a : Addr) :
    busDecode reg a = none ↔ ∀ g ∈ reg, g.covers a = false :=
  busDecodeFrom_eq_none_iff a 0 reg

/-- A device that the decoder names matches, at the offset it names. -/
theorem covers_of_busDecode (reg : List Registration) (a : Addr) (k : Nat) (off : Addr) (g : Registration)
    (hdec : busDecode reg a = some (k, off)) (hget : reg[k]? = some g) : g.covers a = true ∧ off = a - g.base := by
  obtain ⟨g', hget', hcov, hoff⟩ := busDecode_some reg a k off hdec
  obtain rfl : g' = g := by simpa [hget'] using hget
  exact ⟨hcov, hoff⟩

/-- The first registration that matches is the one found: the scan finds one, and of two first matches neither comes before
the other. -/
theorem busDecode_of_first_match (reg : List Registration) (a : Addr) (k : Nat) (g : Registration) (hget : reg[k]? = some g)
    (hcov : g.covers a = true) (hfirst : ∀ j, j < k → ∀ h, reg[j]? = some h → h.covers a = false) :
    busDecode reg a = some (k, a - g.base) := by
  cases hdec : busDecode reg a with
  | none =>
    have hnot := (busDecode_eq_none_iff reg a).mp hdec g (List.mem_of_getElem? hget)
    simp [hcov] at hnot
  | some hit =>
    obtain ⟨k', off⟩ := hit
    obtain ⟨g', hget', hcov', -⟩ := busDecode_some reg a k' off hdec
    rcases Nat.lt_trichotomy k' k with hlt | rfl | hgt
    · simp [hfirst k' hlt g' hget'] at hcov'
    · obtain ⟨-, rfl⟩ := covers_of_busDecode reg a k' off g hdec hget
      rfl
    · simp [covers_eq_false_of_lt_busDecode reg a k' off hdec k hgt g hget] at hcov

/-! ## The devices that are not accessed (R117) -/

theorem readDevice_other (reg : List Registration) (k : Nat) (off : Addr) (size : SizeField) (j : Nat) (g : Registration)
    (hjk : j ≠ k) (hg : reg[j]? = some g) (hj : isController g.dev = false) :
    (readDevice reg k off size).2[j]? = some g := by
  unfold readDevice
  split
  · exact settleDevice_other reg k _ j g hjk hg hj
  · exact hg

theorem writeDevice_other (reg : List Registration) (k : Nat) (off : Addr) (v : Data) (size : SizeField) (mask : Strobe)
    (j : Nat) (g : Registration) (hjk : j ≠ k) (hg : reg[j]? = some g) (hj : isController g.dev = false) :
    (writeDevice reg k off v size mask)[j]? = some g := by
  unfold writeDevice
  split
  · exact settleDevice_other reg k _ j g hjk hg hj
  · exact hg

/-- A device whose range is disjoint from one that holds the address is not the one named. -/
theorem busDecode_ne_of_disjoint (reg : List Registration) (k : Nat) (g h : Registration) (a : Addr)
    (hget : reg[k]? = some h) (hdisj : disjointRanges g h) (hcov : g.covers a = true) (off : Addr) :
    busDecode reg a ≠ some (k, off) := by
  intro hdec
  obtain ⟨hcov', -⟩ := covers_of_busDecode reg a k off h hdec hget
  exact hdisj a ⟨hcov, hcov'⟩

end Sys2Proof.Machine
end

section
/-!
PROOFS. The statements of 40_address_decoder.md.
-/

namespace Sys2Proof.Proofs

open Sys2Proof.Machine

/-- Settles O8: the scan passes over registrations that do not match and stops at the first that does. -/
theorem decodeIsFirstMatch : Obligations.DecodeIsFirstMatch := by
  refine fun reg a => ⟨fun k off => ⟨fun hdec => ?_, ?_⟩, busDecode_eq_none_iff reg a, fun k off g hdec hget => ?_⟩
  · obtain ⟨g, hget, hcov, hoff⟩ := busDecode_some reg a k off hdec
    exact ⟨g, hget, hcov, hoff, covers_eq_false_of_lt_busDecode reg a k off hdec⟩
  · rintro ⟨g, hget, hcov, rfl, hfirst⟩
    exact busDecode_of_first_match reg a k g hget hcov hfirst
  · obtain ⟨hcov, rfl⟩ := covers_of_busDecode reg a k off g hdec hget
    exact (g.covers_iff a).mp hcov

/-- Settles O9: the decoder names another device, whose read or write changes only itself and interrupt controllers. -/
theorem disjointDevicesAreIsolated : Obligations.DisjointDevicesAreIsolated := by
  intro reg j k g h a _ _ hget hdisj hcov
  have hnot := busDecode_ne_of_disjoint reg k g h a hget hdisj hcov
  refine ⟨hnot, fun hctl i off hdec size v mask => ?_⟩
  have hki : k ≠ i := by
    rintro rfl
    exact hnot off hdec
  exact ⟨readDevice_other reg i off size k h hki hget hctl, writeDevice_other reg i off v size mask k h hki hget hctl⟩

/-- Settles O7: the subtraction of 64-bit addresses is the difference modulo 2^64, and nothing is below 0. -/
theorem matchIsModularDifferenceBelowLength : Obligations.MatchIsModularDifferenceBelowLength := by
  intro g a
  constructor
  · have hbase : g.base.toNat < 2 ^ 64 := g.base.isLt
    have hsum : a.toNat + 2 ^ 64 - g.base.toNat = 2 ^ 64 - g.base.toNat + a.toNat := by omega
    rw [Registration.covers_iff, BitVec.toNat_sub, hsum]
  · intro hlen
    rw [← Bool.not_eq_true, Registration.covers_iff, hlen]
    exact Nat.not_lt_zero _

end Sys2Proof.Proofs
end

section
/-!
PROOFS. Burst addresses (41_burst_address.md): the beat address of each burst value, the window of a wrapping burst, and what
stays in the base's page.
-/

namespace Sys2Proof.Machine

/-! ## The beat address of each burst value (R130 to R135) -/

@[simp] theorem burstAddr_fixed (f : WrapFormula) (base : Addr) (size : SizeField) (len : LenField) (beat : Nat) :
    burstAddr f base size 0b00#2 len beat = base := rfl

@[simp] theorem burstAddr_invalid (f : WrapFormula) (base : Addr) (size : SizeField) (len : LenField) (beat : Nat) :
    burstAddr f base size 0b11#2 len beat = base := rfl

@[simp] theorem burstAddr_incr (f : WrapFormula) (base : Addr) (size : SizeField) (len : LenField) (beat : Nat) :
    burstAddr f base size 0b01#2 len beat = incrAddr base size beat := rfl

@[simp] theorem burstAddr_wrap_literal (base : Addr) (size : SizeField) (len : LenField) (beat : Nat) :
    burstAddr .literal base size 0b10#2 len beat = wrapAddr base size len beat := rfl

@[simp] theorem burstAddr_wrap_axi (base : Addr) (size : SizeField) (len : LenField) (beat : Nat) :
    burstAddr .axi base size 0b10#2 len beat = wrapAddrAxi base size len beat := rfl

theorem wrapAddrAxi_toNat (base : Addr) (size : SizeField) (len : LenField) (beat : Nat) :
    (wrapAddrAxi base size len beat).toNat =
      ((alignedBase base size len).toNat +
        ((base.toNat - (alignedBase base size len).toNat) + beat * bytesPerBeat size) % windowBytes size len) % 2 ^ 64 := by
  simp [wrapAddrAxi]

@[simp] theorem incrAddr_zero (base : Addr) (size : SizeField) : incrAddr base size 0 = base := by
  simp [incrAddr]

@[simp] theorem wrapAddr_zero (base : Addr) (size : SizeField) (len : LenField) :
    wrapAddr base size len 0 = alignedBase base size len := by
  simp [wrapAddr]

/-- The two WRAP formulas differ only in where in the window they start, so they agree at an aligned base (R138). -/
theorem wrapAddrAxi_eq_wrapAddr (base : Addr) (size : SizeField) (len : LenField) (beat : Nat)
    (haligned : alignedBase base size len = base) : wrapAddrAxi base size len beat = wrapAddr base size len beat := by
  simp [wrapAddrAxi, wrapAddr, haligned]

/-! ## The size of a window (R133) -/

@[simp] theorem windowBytes_one_beat (size : SizeField) : windowBytes size 0 = 2 ^ size.toNat :=
  Nat.one_mul _

theorem windowBytes_le (size : SizeField) (len : LenField) (s : Nat) (hsize : size.toNat ≤ s) :
    windowBytes size len ≤ 2 ^ 8 * 2 ^ s :=
  Nat.mul_le_mul len.isLt (Nat.pow_le_pow_right (by decide) hsize)

theorem windowBytes_lt (size : SizeField) (len : LenField) : windowBytes size len < 2 ^ 64 :=
  calc windowBytes size len ≤ 2 ^ 8 * 2 ^ 7 := windowBytes_le size len 7 (Nat.le_of_lt_succ size.isLt)
    _ < 2 ^ 64 := by decide

/-! ## A window in the address space

`alignedBase` clears the bits of `windowBytes - 1`. Whether or not the window is a power of two, adding `windowBytes - 1` to the
aligned base sets these bits again, so a window ends at the base with these bits set and never passes the top. -/

/-- The bits that `alignedBase` clears (R133). -/
def windowMask (size : SizeField) (len : LenField) : Addr := BitVec.ofNat 64 (windowBytes size len - 1)

theorem alignedBase_eq (base : Addr) (size : SizeField) (len : LenField) :
    alignedBase base size len = base &&& ~~~windowMask size len := rfl

theorem windowMask_toNat (size : SizeField) (len : LenField) :
    (windowMask size len).toNat = windowBytes size len - 1 := by
  have hlt := windowBytes_lt size len
  rw [windowMask, BitVec.toNat_ofNat, Nat.mod_eq_of_lt (by omega)]

theorem alignedBase_or_windowMask (base : Addr) (size : SizeField) (len : LenField) :
    alignedBase base size len ||| windowMask size len = base ||| windowMask size len := by
  rw [alignedBase_eq]
  ext i
  cases hm : (windowMask size len)[i] <;> simp [hm]

theorem alignedBase_and_windowMask (base : Addr) (size : SizeField) (len : LenField) :
    alignedBase base size len &&& windowMask size len = 0#64 := by
  rw [alignedBase_eq]
  ext i
  simp

/-- The last address of the window. -/
theorem alignedBase_toNat_add (base : Addr) (size : SizeField) (len : LenField) :
    (alignedBase base size len).toNat + (windowBytes size len - 1) = (base ||| windowMask size len).toNat := by
  have hdisj := alignedBase_and_windowMask base size len
  rw [← windowMask_toNat, ← BitVec.toNat_add_of_and_eq_zero hdisj, BitVec.add_eq_or_of_and_eq_zero _ _ hdisj,
    alignedBase_or_windowMask]

/-- Every wrapping beat is in its window, under either formula: the window never passes the top, so nothing is reduced. -/
theorem burstAddr_wrap_mem_window (f : WrapFormula) (base : Addr) (size : SizeField) (len : LenField) (beat : Nat) :
    (alignedBase base size len).toNat ≤ (burstAddr f base size 0b10#2 len beat).toNat ∧
      (burstAddr f base size 0b10#2 len beat).toNat < (alignedBase base size len).toNat + windowBytes size len := by
  have htop : (alignedBase base size len).toNat + (windowBytes size len - 1) < 2 ^ 64 := by
    rw [alignedBase_toNat_add]
    exact BitVec.isLt _
  have hin : ∀ offset, (alignedBase base size len).toNat ≤
        ((alignedBase base size len).toNat + offset % windowBytes size len) % 2 ^ 64 ∧
      ((alignedBase base size len).toNat + offset % windowBytes size len) % 2 ^ 64 <
        (alignedBase base size len).toNat + windowBytes size len := by
    intro offset
    have hoffset := Nat.mod_lt offset (windowBytes_pos size len)
    rw [Nat.mod_eq_of_lt (by omega)]
    omega
  cases f with
  | literal =>
    rw [burstAddr_wrap_literal, wrapAddr_toNat]
    exact hin _
  | axi =>
    rw [burstAddr_wrap_axi, wrapAddrAxi_toNat]
    exact hin _

/-- A base that is a multiple of its window has none of the bits that `alignedBase` clears. -/
theorem alignedBase_eq_self (base : Addr) (size : SizeField) (len : LenField) (n : Nat) (hwindow : windowBytes size len = 2 ^ n)
    (hbase : base.toNat % 2 ^ n = 0) : alignedBase base size len = base := by
  have hdisj : base &&& windowMask size len = 0#64 := by
    apply BitVec.eq_of_toNat_eq
    rw [BitVec.toNat_and, windowMask_toNat, hwindow, Nat.and_two_pow_sub_one_eq_mod, hbase]
    rfl
  have hsum : alignedBase base size len + windowMask size len = base + windowMask size len := by
    rw [BitVec.add_eq_or_of_and_eq_zero _ _ (alignedBase_and_windowMask base size len),
      BitVec.add_eq_or_of_and_eq_zero _ _ hdisj, alignedBase_or_windowMask]
  exact (BitVec.add_left_inj _).mp hsum

/-! ## The page of an address (R136) -/

theorem samePage_iff (a start : Addr) : samePage a start = true ↔ a.toNat / 4096 = start.toNat / 4096 := by
  rw [samePage, beq_iff_eq, ← BitVec.toNat_inj, BitVec.toNat_ushiftRight, BitVec.toNat_ushiftRight,
    Nat.shiftRight_eq_div_pow, Nat.shiftRight_eq_div_pow]
  rfl

@[simp] theorem samePage_refl (a : Addr) : samePage a a = true :=
  (samePage_iff a a).mpr rfl

/-- Setting bits below the page bit does not leave the page. -/
theorem or_div_page (a m : Addr) (hm : m.toNat < 4096) : (a ||| m).toNat / 4096 = a.toNat / 4096 := by
  rw [BitVec.toNat_or, Nat.or_div_two_pow (n := 12), Nat.div_eq_of_lt hm, Nat.or_zero]

/-- A window of at most 4096 bytes lies in its base's page: both its ends are there, since they differ from the base in bits of
`windowMask` only. -/
theorem samePage_burstAddr_wrap (f : WrapFormula) (base : Addr) (size : SizeField) (len : LenField) (beat : Nat)
    (hwindow : windowBytes size len ≤ 4096) : samePage (burstAddr f base size 0b10#2 len beat) base = true := by
  have hmask : (windowMask size len).toNat < 4096 := by
    have hpos := windowBytes_pos size len
    rw [windowMask_toNat]
    omega
  have hlast := or_div_page base (windowMask size len) hmask
  have hfirst := or_div_page (alignedBase base size len) (windowMask size len) hmask
  rw [alignedBase_or_windowMask, ← alignedBase_toNat_add] at hfirst
  rw [← alignedBase_toNat_add] at hlast
  obtain ⟨hge, hlt⟩ := burstAddr_wrap_mem_window f base size len beat
  rw [samePage_iff]
  omega

end Sys2Proof.Machine
end

section
/-!
PROOFS. The statements of 41_burst_address.md.
-/

namespace Sys2Proof.Proofs

open Sys2Proof.Machine

/-- Settles O12: the sum is not reduced, a window never passes the top, and one beat at an aligned base starts a window there. -/
theorem burstBeatsObeyTheLaws : Obligations.BurstBeatsObeyTheLaws := by
  refine fun f base size len beat => ⟨fun hsum => ?_, burstAddr_fixed .., fun _ => ?_, fun hbase => ⟨?_, ?_, ?_⟩⟩
  · rw [burstAddr_incr, incrAddr_toNat]
    exact Nat.mod_eq_of_lt hsum
  · exact burstAddr_wrap_mem_window f base size len beat
  · exact burstAddr_fixed ..
  · rw [burstAddr_incr, incrAddr_zero]
  · have haligned := alignedBase_eq_self base size 0 size.toNat (windowBytes_one_beat size) hbase
    cases f with
    | literal => rw [burstAddr_wrap_literal, wrapAddr_zero, haligned]
    | axi => rw [burstAddr_wrap_axi, wrapAddrAxi_eq_wrapAddr _ _ _ _ haligned, wrapAddr_zero, haligned]

/-- Settles O13: the other beats are at the base, and a window of at most 4096 bytes lies in the base's page. -/
theorem onlyLongBurstsLeaveThePage : Obligations.OnlyLongBurstsLeaveThePage := by
  refine fun f base size len beat => ⟨?_, ?_, ?_, samePage_burstAddr_wrap f base size len beat, windowBytes_le size len 3⟩
  · rw [burstAddr_fixed, samePage_refl]
  · rw [burstAddr_invalid, samePage_refl]
  · rw [burstAddr_incr, incrAddr_zero, samePage_refl]

/-- Settles O10: each burst value selects its formula. -/
theorem burstAddressFormulas : Obligations.BurstAddressFormulas := by
  refine fun f base size len beat => ⟨burstAddr_fixed .., burstAddr_invalid .., incrAddr_toNat base size beat, ?_⟩
  rintro perBeat window aligned rfl rfl rfl
  exact wrapAddr_toNat base size len beat

/-- Settles O11: a base that is a multiple of a power-of-two window is its own aligned base, where both formulas start. -/
theorem axiWrapFormulaAndItsAgreement : Obligations.AxiWrapFormulaAndItsAgreement := by
  refine fun base size len beat => ⟨?_, fun n hwindow hbase => ?_⟩
  · rintro perBeat window aligned rfl rfl rfl
    exact wrapAddrAxi_toNat base size len beat
  · exact wrapAddrAxi_eq_wrapAddr base size len beat (alignedBase_eq_self base size len n hwindow hbase)

/-- Settles O14: what stands above bit 12 is the quotient by 4096. -/
theorem samePageIsTheSame4KiBBlock : Obligations.SamePageIsTheSame4KiBBlock := samePage_iff

end Sys2Proof.Proofs
end

section
/-!
PROOFS. The exclusive monitor (42_exclusive_monitor.md): when ranges meet, what each query reads, and which slots a reservation
and a clearing take away.
-/

namespace Sys2Proof.Machine

/-! ## Ranges (R150) -/

theorem intersects_iff (a1 : Addr) (s1 : SizeField) (a2 : Addr) (s2 : SizeField) :
    intersects a1 s1 a2 s2 = true ↔ a1.toNat < a2.toNat + 2 ^ s2.toNat ∧ a2.toNat < a1.toNat + 2 ^ s1.toNat := by
  simp [intersects]

/-- No range is empty, so ranges that meet share the later of the two starts. -/
theorem intersects_iff_shared_byte (a1 : Addr) (s1 : SizeField) (a2 : Addr) (s2 : SizeField) :
    intersects a1 s1 a2 s2 = true ↔
      ∃ x : Nat, a1.toNat ≤ x ∧ x < a1.toNat + 2 ^ s1.toNat ∧ a2.toNat ≤ x ∧ x < a2.toNat + 2 ^ s2.toNat := by
  have hpos1 := Nat.two_pow_pos s1.toNat
  have hpos2 := Nat.two_pow_pos s2.toNat
  rw [intersects_iff]
  constructor
  · rintro ⟨h12, h21⟩
    exact ⟨max a1.toNat a2.toNat, by omega⟩
  · rintro ⟨x, hge1, hlt1, hge2, hlt2⟩
    exact ⟨by omega, by omega⟩

/-! ## Queries (R152, R153) -/

/-- A slot of the table is one at some position. -/
theorem exists_slot_iff (slots : List Slot) (p : Slot → Prop) :
    (∃ t ∈ slots, p t) ↔ ∃ (i : Nat) (t : Slot), slots[i]? = some t ∧ p t := by
  simp only [List.mem_iff_getElem?, ← exists_and_right]
  exact exists_comm

theorem Slot.conflictsWith_iff (t : Slot) (a : Addr) (s : SizeField) :
    t.conflictsWith a s = true ↔ t.valid = true ∧ intersects a s t.addr t.size = true := by
  simp [Slot.conflictsWith]

theorem Monitor.conflicts_iff (m : Monitor) (a : Addr) (s : SizeField) :
    m.conflicts a s = true ↔ ∃ t ∈ m.slots, t.conflictsWith a s = true := by
  simp [Monitor.conflicts]

/-- A reservation at the address of an access meets the access, whatever the two sizes. -/
theorem Monitor.conflicts_of_hit (m : Monitor) (a : Addr) (s : SizeField) (h : m.hit a = true) :
    m.conflicts a s = true := by
  obtain ⟨t, ht, hlive, rfl⟩ := (m.hit_iff a).mp h
  exact (m.conflicts_iff t.addr s).mpr ⟨t, ht, (t.conflictsWith_iff t.addr s).mpr ⟨hlive, intersects_same _ _ _⟩⟩

/-! ## Reservations (R151) -/

theorem Monitor.reserve_of_first_free (m : Monitor) (a : Addr) (s : SizeField) (i : Nat) (t : Slot)
    (hget : m.slots[i]? = some t) (hfree : t.valid = false)
    (hfirst : ∀ (j : Nat) (u : Slot), j < i → m.slots[j]? = some u → u.valid = true) :
    m.reserve a s = { slots := m.slots.set i { valid := true, addr := a, size := s }, cursor := m.cursor } := by
  obtain ⟨hlt, rfl⟩ := List.getElem?_eq_some_iff.mp hget
  have hfind : m.slots.findIdx? (fun t => !t.valid) = some i := by
    refine List.findIdx?_eq_some_iff_getElem.mpr ⟨hlt, by simp [hfree], fun j hj => ?_⟩
    simp [hfirst j _ hj (List.getElem?_eq_getElem (hj.trans hlt))]
  simp only [Monitor.reserve, hfind]

theorem Monitor.reserve_of_full (m : Monitor) (a : Addr) (s : SizeField) (hfull : ∀ t ∈ m.slots, t.valid = true) :
    m.reserve a s =
      { slots := m.slots.set m.cursor { valid := true, addr := a, size := s }
        cursor := (m.cursor + 1) % m.slots.length } := by
  have hfind : m.slots.findIdx? (fun t => !t.valid) = none :=
    List.findIdx?_eq_none_iff.mpr fun t ht => by simp [hfull t ht]
  simp only [Monitor.reserve, hfind]

/-- Where a reservation goes: into a free slot, or, the table being full, over the slot at the cursor. -/
theorem Monitor.reserve_slots (m : Monitor) (a : Addr) (s : SizeField) :
    ∃ i, (m.reserve a s).slots = m.slots.set i { valid := true, addr := a, size := s } ∧
      ((∃ t, m.slots[i]? = some t ∧ t.valid = false) ∨ (i = m.cursor ∧ ∀ t ∈ m.slots, t.valid = true)) := by
  cases hfind : m.slots.findIdx? (fun t => !t.valid) with
  | some i =>
    obtain ⟨hlt, hfree, -⟩ := List.findIdx?_eq_some_iff_getElem.mp hfind
    refine ⟨i, by simp only [Monitor.reserve, hfind], .inl ⟨_, List.getElem?_eq_getElem hlt, ?_⟩⟩
    simpa using hfree
  | none =>
    have hfull : ∀ t ∈ m.slots, t.valid = true := by simpa using List.findIdx?_eq_none_iff.mp hfind
    exact ⟨m.cursor, by rw [m.reserve_of_full a s hfull], .inr ⟨rfl, hfull⟩⟩

/-- A reservation takes a live slot away only by eviction: the table is full and the cursor points at the slot. -/
theorem Monitor.full_of_lost_by_reserve (m : Monitor) (a : Addr) (s : SizeField) (n : Nat) (r : Slot)
    (hget : m.slots[n]? = some r) (hlive : r.valid = true) (hlost : (m.reserve a s).slots[n]? ≠ some r) :
    m.cursor = n ∧ ∀ t ∈ m.slots, t.valid = true := by
  obtain ⟨i, hslots, hplace⟩ := m.reserve_slots a s
  have hin : i = n := by
    by_contra hne
    rw [hslots, List.getElem?_set_ne hne] at hlost
    exact hlost hget
  subst hin
  rcases hplace with ⟨t, ht, hfree⟩ | ⟨hcursor, hfull⟩
  · obtain rfl : r = t := Option.some.inj (hget.symm.trans ht)
    exact absurd hlive (by simp [hfree])
  · exact ⟨hcursor.symm, hfull⟩

/-! ## Clearing (R154) -/

/-- What clearing leaves of a slot: its address and size, and its reservation if that does not meet the access. -/
theorem Monitor.invalidate_slot (m : Monitor) (a : Addr) (s : SizeField) (i : Nat) (t : Slot) (hget : m.slots[i]? = some t) :
    ∃ u, (m.invalidateConflicting a s).slots[i]? = some u ∧ u.addr = t.addr ∧ u.size = t.size ∧
      (u.valid = true ↔ t.valid = true ∧ intersects a s t.addr t.size = false) := by
  refine ⟨_, by rw [Monitor.invalidate_getElem?, hget, Option.map_some], ?_⟩
  split
  next hmeet =>
    obtain ⟨-, hint⟩ := (t.conflictsWith_iff a s).mp hmeet
    exact ⟨rfl, rfl, by simp [hint]⟩
  next hapart =>
    refine ⟨rfl, rfl, ?_⟩
    simpa [t.conflictsWith_iff a s] using hapart

/-- Clearing takes away a live slot only if its range meets the access. -/
theorem Monitor.intersects_of_lost_by_invalidate (m : Monitor) (a : Addr) (s : SizeField) (n : Nat) (r : Slot)
    (hget : m.slots[n]? = some r) (hlost : (m.invalidateConflicting a s).slots[n]? ≠ some r) :
    intersects a s r.addr r.size = true := by
  rw [Monitor.invalidate_getElem?, hget] at hlost
  cases hmeet : r.conflictsWith a s with
  | true =>
    obtain ⟨-, hint⟩ := (r.conflictsWith_iff a s).mp hmeet
    exact hint
  | false => simp [hmeet] at hlost

/-- After clearing for an access no live reservation meets it. -/
@[simp] theorem Monitor.conflicts_invalidate (m : Monitor) (a : Addr) (s : SizeField) :
    (m.invalidateConflicting a s).conflicts a s = false := by
  rw [Bool.eq_false_iff, ne_eq, Monitor.conflicts_iff]
  rintro ⟨u, hu, hmeet⟩
  obtain ⟨hlive, hint⟩ := (u.conflictsWith_iff a s).mp hmeet
  obtain ⟨i, hi⟩ := List.mem_iff_getElem?.mp hu
  have hold := m.invalidate_live a s i u hi hlive
  obtain ⟨v, hv, -, -, hkept⟩ := m.invalidate_slot a s i u hold
  obtain rfl : u = v := Option.some.inj (hi.symm.trans hv)
  obtain ⟨-, hapart⟩ := hkept.mp hlive
  simp [hint] at hapart

@[simp] theorem Monitor.hit_invalidate (m : Monitor) (a : Addr) (s : SizeField) :
    (m.invalidateConflicting a s).hit a = false := by
  rw [Bool.eq_false_iff]
  intro hhit
  simpa using Monitor.conflicts_of_hit _ a s hhit

end Sys2Proof.Machine
end

section
/-!
PROOFS. The monitor at the engines' beats (42_exclusive_monitor.md R155): what a handshaked read beat and a valid write beat of
any kind do, and that a beat decodes alike at every moment of an edge.
-/

namespace Sys2Proof.Machine

open Sys2Proof.Safety

/-! ## Beats of the engines -/

@[simp] theorem acknowledgeReadBeat_M (q : Request) (a : Addr) (valid : Bool) (s : State) :
    (acknowledgeReadBeat q a valid s).M =
      if q.lock && (valid || s.params.reserveOnDecErr) then s.M.reserve a q.size else s.M := rfl

@[simp] theorem takeWriteBeat_registry (q : Request) (a : Addr) (k : Nat) (off : Addr) (s : State) :
    (takeWriteBeat q a k off s).registry =
      if writeReaches q.lock (s.M.hit a) then writeDevice s.registry k off s.inp.wdata q.size s.inp.wstrb
      else s.registry := rfl

@[simp] theorem takeWriteBeat_W_pending (q : Request) (a : Addr) (k : Nat) (off : Addr) (s : State) :
    (takeWriteBeat q a k off s).W.pending = writeBeatResp q.lock (s.M.hit a) := by
  simp only [takeWriteBeat]
  split <;> rfl

/-- A handshaked valid beat of a locked read reserves its address (R190). -/
theorem evalRead_M_of_locked_beat (q : Request) (s : State) (k : Nat) (off : Addr) (hlock : q.lock = true)
    (hs : s.R.state = .sending) (hready : s.inp.rready = true)
    (htarget : beatDevice s q s.R.addr s.R.beat = some (k, off)) :
    (evalRead q s).M = s.M.reserve (beatAddr s.params q s.R.addr s.R.beat) q.size := by
  rw [evalRead_sending q s hs, sendRead_valid_ready q s k off htarget hready, acknowledgeReadBeat_M, presentReadBeat_M,
    hlock]
  rfl

/-- A read evaluation keeps bases and lengths (R24). -/
theorem evalRead_ranges (q : Request) (s : State) : registryRanges (evalRead q s).registry = registryRanges s.registry := by
  rcases evalRead_registry q s with h | ⟨k, off, -, h⟩ <;> rw [h]
  exact registryRanges_readDevice _ _ _ _

/-- A valid write data beat (R214). -/
theorem evalWrite_valid_beat (q : Request) (s : State) (k : Nat) (off : Addr) (hs : s.W.state = .acceptingData)
    (hvalid : s.inp.wvalid = true) (htarget : beatDevice s q s.W.addr s.W.beat = some (k, off)) :
    evalWrite q s =
      takeWriteBeat q (beatAddr s.params q s.W.addr s.W.beat) k off (driveWriteOpen s false true) := by
  rw [evalWrite_accepting q s hs, acceptWriteData_valid q s k off htarget hvalid]
  rfl

/-- EXCLUSIVE-OK is the response of a locked beat that hits, and of no other (R214). -/
theorem writeBeatResp_eq_exokay_iff (lock hit : Bool) :
    writeBeatResp lock hit = .exokay ↔ lock = true ∧ hit = true := by
  cases lock <;> cases hit <;> decide

/-! ## Beats within an edge -/

/-- The device steps do not change which device a beat decodes to. -/
theorem beatDevice_beginEdge (s : State) (q : Request) (start : Addr) (beat : Nat) :
    beatDevice (beginEdge s) q start beat = beatDevice s q start beat :=
  beatDevice_of_ranges s (beginEdge s) q start beat (beginEdge_ranges s) rfl

/-- Nor does the read engine's evaluation. -/
theorem beatDevice_readPart (s : State) (q : Request) (start : Addr) (beat : Nat) :
    beatDevice (readPart s) q start beat = beatDevice s q start beat := by
  obtain ⟨hparams, -⟩ := readPart_frame s
  exact beatDevice_of_ranges s (readPart s) q start beat (readPart_ranges s) hparams

/-- Whose reservation is live after the read engine's evaluation: one live before it, or that of the locked beat handshaked. -/
theorem hit_readPart (s : State) (a : Addr) (h : (readPart s).M.hit a = true) :
    s.M.hit a = true ∨
      (s.R.state = .sending ∧ s.inp.rready = true ∧ s.R.lock = true ∧
        beatAddr s.params (readLatched s.R) s.R.addr s.R.beat = a) := by
  rcases readPart_M s with hM | ⟨hs, hready, hlock, -, hM⟩ <;> rw [hM] at h
  · exact .inl h
  · rcases Monitor.hit_of_hit_reserve _ _ _ _ h with hold | hnew
    · exact .inl hold
    · exact .inr ⟨hs, hready, hlock, hnew⟩

/-- The read engine's evaluation takes away a live slot only by evicting it for a locked read's handshaked beat (R157 (b)). -/
theorem lost_by_readPart (s : State) (n : Nat) (r : Slot) (hget : s.M.slots[n]? = some r) (hlive : r.valid = true)
    (hlost : (readPart s).M.slots[n]? ≠ some r) :
    s.R.state = .sending ∧ s.inp.rready = true ∧ s.R.lock = true ∧ s.M.cursor = n ∧
      (∀ u ∈ s.M.slots, u.valid = true) ∧
      ((beatDevice s (readLatched s.R) s.R.addr s.R.beat).isSome = true ∨ s.params.reserveOnDecErr = true) := by
  rcases readPart_M s with hM | ⟨hs, hready, hlock, hbeat, hM⟩ <;> rw [hM] at hlost
  · exact absurd hget hlost
  · obtain ⟨hcursor, hfull⟩ := s.M.full_of_lost_by_reserve _ _ n r hget hlive hlost
    exact ⟨hs, hready, hlock, hcursor, hfull, hbeat⟩

/-- The write engine's evaluation takes away a slot only by a valid data beat that meets it (R157 (a)). -/
theorem lost_by_writePart (s : State) (n : Nat) (r : Slot) (hget : s.M.slots[n]? = some r)
    (hlost : (writePart s).M.slots[n]? ≠ some r) :
    s.W.state = .acceptingData ∧ s.inp.wvalid = true ∧
      (beatDevice s (writeLatched s.W) s.W.addr s.W.beat).isSome = true ∧
      intersects (beatAddr s.params (writeLatched s.W) s.W.addr s.W.beat) s.W.size r.addr r.size = true := by
  rcases writePart_cases s with ⟨-, -, hM⟩ | ⟨-, -, -, hM, -⟩ | ⟨hs, hvalid, p, htarget, hM, -⟩ <;> rw [hM] at hlost
  · exact absurd hget hlost
  · exact absurd hget hlost
  · exact ⟨hs, hvalid, Option.isSome_of_eq_some htarget, s.M.intersects_of_lost_by_invalidate _ _ n r hget hlost⟩

/-- A data beat that leaves EXCLUSIVE-OK pending is a locked, valid one that hits (R159). -/
theorem writePart_exokay (s : State) (hs : s.W.state = .acceptingData) (hvalid : s.inp.wvalid = true)
    (hpending : (writePart s).W.pending = .exokay) :
    s.W.lock = true ∧ (beatDevice s (writeLatched s.W) s.W.addr s.W.beat).isSome = true ∧
      s.M.hit (beatAddr s.params (writeLatched s.W) s.W.addr s.W.beat) = true := by
  rcases writePart_cases s with ⟨hnot, -⟩ | ⟨-, -, -, -, hdecerr⟩ | ⟨-, -, p, htarget, -, hresp⟩
  · exact absurd ⟨hs, hvalid⟩ hnot
  · rw [hdecerr] at hpending
    cases hpending
  · obtain ⟨hlock, hhit⟩ := (writeBeatResp_eq_exokay_iff _ _).mp (hresp.symm.trans hpending)
    exact ⟨hlock, Option.isSome_of_eq_some htarget, hhit⟩

/-- Without a data beat the pending response stays. -/
theorem writePart_pending_of_no_beat (s : State) (h : ¬(s.W.state = .acceptingData ∧ s.inp.wvalid = true)) :
    (writePart s).W.pending = s.W.pending := by
  rcases writePart_cases s with ⟨-, hpending, -⟩ | ⟨hs, hvalid, -⟩ | ⟨hs, hvalid, -⟩
  · exact hpending
  · exact absurd ⟨hs, hvalid⟩ h
  · exact absurd ⟨hs, hvalid⟩ h

end Sys2Proof.Machine
end

section
/-!
PROOFS. The statements of 42_exclusive_monitor.md.
-/

namespace Sys2Proof.Proofs

open Sys2Proof.Machine Sys2Proof.Safety

/-- Settles O16: the search for a free slot finds the first one, or none when the table is full. -/
theorem reserveTakesFirstFreeSlotElseCursor : Obligations.ReserveTakesFirstFreeSlotElseCursor :=
  fun m a s => ⟨m.reserve_of_first_free a s, m.reserve_of_full a s⟩

/-- Settles O37: the read beat's evaluation reserves the address and leaves what the write beat depends on; the write beat reads
the match and then clears it. -/
theorem loadReservedThenStoreConditionalSucceeds : Obligations.LoadReservedThenStoreConditionalSucceeds := by
  intro r w s a j k o off hrdir hrlock hwdir hwlock hsend hdata hready hvalid hcursor hraddr hwaddr hrtarget hwtarget
  obtain ⟨hparams, hW, hinp, -⟩ := evalRead_frame r.request s
  have hlive : (evalRead r.request s).M.hit a = true := by
    rw [evalRead_M_of_locked_beat _ s j o hrlock hsend hready hrtarget, hraddr]
    exact Monitor.hit_reserve _ _ _ hcursor
  have htarget : beatDevice (evalRead r.request s) w.request s.W.addr s.W.beat = some (k, off) :=
    (beatDevice_of_ranges s _ _ _ _ (evalRead_ranges _ s) hparams).trans hwtarget
  have hwrite := evalWrite_valid_beat w.request (evalRead r.request s) k off (by rw [hW, hdata]) (by rw [hinp, hvalid])
    (by rw [hW, htarget])
  rw [hparams, hW, hwaddr] at hwrite
  refine ⟨_, _, exec_read r s hrdir, exec_write w _ hwdir, hlive, ?_⟩
  rw [hwrite]
  simp [hlive, hwlock, hinp, writeBeatResp, writeReaches]

/-- Settles O38: the write is evaluated in the state the read evaluation leaves, where its beat decodes as before the edge. -/
theorem exclusiveSuccessNeedsALiveReservation : Obligations.ExclusiveSuccessNeedsALiveReservation := by
  rintro s t a hstep rfl
  obtain rfl := (step_eq_next_iff s t).mp hstep
  obtain ⟨hparams, hW, hinp, -⟩ := readPart_frame (beginEdge s)
  rw [beginEdge_params] at hparams
  rw [beginEdge_W] at hW
  rw [beginEdge_inp] at hinp
  rw [endEdge_W]
  constructor
  · intro hs hvalid hpending
    obtain ⟨hlock, htarget, hhit⟩ :=
      writePart_exokay (readPart (beginEdge s)) (by rw [hW, hs]) (by rw [hinp, hvalid]) hpending
    rw [beatDevice_readPart, beatDevice_beginEdge, hW] at htarget
    rw [hparams, hW] at hhit
    rw [hW] at hlock
    exact ⟨hlock, htarget, ⟨_, runRead_eq _, hhit⟩, hit_readPart (beginEdge s) _ hhit⟩
  · intro hnone
    rw [writePart_pending_of_no_beat, hW]
    rw [hW, hinp]
    rintro ⟨hs, hvalid⟩
    rcases hnone with hne | hlow
    · exact hne hs
    · simp [hvalid] at hlow

/-- Settles O39: a valid beat clears what meets its range, and a reservation at its address is among that. -/
theorem validWriteBeatClearsWhatItMeets : Obligations.ValidWriteBeatClearsWhatItMeets := by
  intro i s k off hdir hs hvalid htarget
  refine ⟨_, exec_write i s hdir, ?_⟩
  rw [evalWrite_valid_beat i.request s k off hs hvalid htarget, takeWriteBeat_M]
  exact ⟨Monitor.conflicts_invalidate _ _ _, Monitor.hit_invalidate _ _ _⟩

/-- Settles O40: the slot is lost to the read engine's evaluation, or stands after it and is lost to the write engine's. -/
theorem onlyWritesAndEvictionBreakReservations : Obligations.OnlyWritesAndEvictionBreakReservations := by
  intro s t n r hstep hget hlive hlost
  obtain rfl := (step_eq_next_iff s t).mp hstep
  by_cases hkept : (readPart (beginEdge s)).M.slots[n]? = some r
  · left
    obtain ⟨hparams, hW, hinp, -⟩ := readPart_frame (beginEdge s)
    have hcause := lost_by_writePart _ n r hkept hlost
    rwa [beatDevice_readPart, beatDevice_beginEdge, hparams, hW, hinp] at hcause
  · right
    have hcause := lost_by_readPart (beginEdge s) n r hget hlive hkept
    rwa [beatDevice_beginEdge] at hcause

/-- Settles O15: the shared byte is the later of the two starts. -/
theorem rangesMeetOnUnboundedNumbers : Obligations.RangesMeetOnUnboundedNumbers :=
  fun a1 s1 a2 s2 => ⟨intersects_iff a1 s1 a2 s2, intersects_iff_shared_byte a1 s1 a2 s2⟩

/-- Settles O17: both queries ask for a slot of the table. -/
theorem conflictsAndHitReadLiveSlots : Obligations.ConflictsAndHitReadLiveSlots := by
  intro m a s
  constructor
  · rw [Monitor.conflicts_iff, exists_slot_iff]
    simp only [Slot.conflictsWith_iff, intersects_iff]
  · rw [Monitor.hit_iff, exists_slot_iff]

/-- Settles O18: clearing maps each slot alone. -/
theorem invalidateClearsExactlyTheConflicting : Obligations.InvalidateClearsExactlyTheConflicting :=
  fun m a s => ⟨m.invalidate_cursor a s, m.invalidate_length a s, m.invalidate_slot a s⟩

/-- Settles O19: two reservations fill the table, and the third goes over slot 0, where the cursor stands. -/
theorem thirdReservationEvictsTheFirst : Obligations.ThirdReservationEvictsTheFirst := by
  intro a b c sa sb sc
  have hfilled : ((Monitor.reset 2).reserve a sa).reserve b sb =
      { slots := [⟨true, a, sa⟩, ⟨true, b, sb⟩], cursor := 0 } := rfl
  rw [hfilled, Monitor.reserve_of_full _ c sc (by simp)]
  rfl

end Sys2Proof.Proofs
end

section
/-!
PROOFS. One evaluation of the read engine (43_read_engine.md): what an acceptance, a presented beat and its handshake each write,
and that none of them touches the write side.
-/

namespace Sys2Proof.Machine

open Sys2Proof.Safety

/-! ## Acceptance (R181) -/

/-- The register after an acceptance of an id that fits its wire: the request's fields, beat 0 due, the cache as it was. -/
theorem acceptRead_R (q : Request) (s : State) (hid : s.inp.arid < 2 ^ s.params.idWidth) :
    (acceptRead q s).R =
      { s.R with
        state := .sending
        beat := 0
        addr := s.inp.araddr
        size := q.size
        burst := q.burst
        id := s.inp.arid
        len := q.len
        lock := q.lock } := by
  simp only [acceptRead, Params.fitId, Nat.mod_eq_of_lt hid]

/-! ## A presented beat (R182, R185, R186) -/

/-- The value of a valid beat: the cached one, or that of a device read. -/
def readBeatValue (q : Request) (k : Nat) (off : Addr) (s : State) : Data :=
  s.R.cache.getD (readDevice s.registry k off q.size).1

theorem readBeatValue_cached (q : Request) (k : Nat) (off : Addr) (s : State) (v : Data) (hc : s.R.cache = some v) :
    readBeatValue q k off s = v := by
  simp [readBeatValue, hc]

theorem readBeatValue_absent (q : Request) (k : Nat) (off : Addr) (s : State) (g : Registration)
    (hc : s.R.cache = none) (hg : s.registry[k]? = some g) :
    readBeatValue q k off s = (g.dev.read off q.size).1 := by
  obtain ⟨hvalue, -⟩ := readDevice_spec s.registry k off q.size g hg
  simp [readBeatValue, hc, hvalue]

section
variable (q : Request) (k : Nat) (off : Addr) (s : State)

/-- A beat is presented by driving the wires: its value comes to the cache, and a first presentation changes the registry. -/
theorem presentReadBeat_eq :
    presentReadBeat q k off s =
      driveReadBeat
        { s with
          registry := (presentReadBeat q k off s).registry
          R := { s.R with cache := some (readBeatValue q k off s) } }
        (readBeatValue q k off s) (readBeatResp q.lock) (readBeatLast s.R.beat q.len) := by
  cases hc : s.R.cache with
  | none =>
    simp only [readBeatValue, hc, presentReadBeat_absent q k off s hc]
    rfl
  | some v =>
    have hR : { s.R with cache := some v } = s.R := by rw [← hc]
    rw [presentReadBeat_cached q k off s v hc, readBeatValue_cached q k off s v hc, hR]
    rfl

theorem presentReadBeat_R_eq :
    (presentReadBeat q k off s).R = { s.R with cache := some (readBeatValue q k off s) } := by
  rw [presentReadBeat_eq, driveReadBeat_R]

@[simp] theorem presentReadBeat_out_rdata : (presentReadBeat q k off s).out.rdata = readBeatValue q k off s := by
  rw [presentReadBeat_eq, driveReadBeat_out_rdata]

@[simp] theorem presentReadBeat_out_arready : (presentReadBeat q k off s).out.arready = false := by
  rw [presentReadBeat_eq, driveReadBeat_out_arready]

@[simp] theorem presentReadBeat_out_rvalid : (presentReadBeat q k off s).out.rvalid = true := by
  rw [presentReadBeat_eq, driveReadBeat_out_rvalid]

@[simp] theorem presentReadBeat_out_rid : (presentReadBeat q k off s).out.rid = s.R.id := by
  rw [presentReadBeat_eq, driveReadBeat_out_rid]

@[simp] theorem presentReadBeat_out_rlast :
    (presentReadBeat q k off s).out.rlast = decide (s.R.beat = q.len.toNat) := by
  rw [presentReadBeat_eq, driveReadBeat_out_rlast, readBeatLast]

theorem presentReadBeat_sameWriteWires : sameWriteWires (presentReadBeat q k off s).out s.out := by
  rw [presentReadBeat_eq]
  exact ⟨rfl, rfl, rfl, rfl, rfl⟩

end

theorem presentReadBeat_registry_cached (q : Request) (k : Nat) (off : Addr) (s : State) (v : Data)
    (hc : s.R.cache = some v) : (presentReadBeat q k off s).registry = s.registry := by
  rw [presentReadBeat_cached q k off s v hc, driveReadBeat_registry]

theorem presentReadBeat_registry_absent (q : Request) (k : Nat) (off : Addr) (s : State) (hc : s.R.cache = none) :
    (presentReadBeat q k off s).registry = (readDevice s.registry k off q.size).2 := by
  rw [presentReadBeat_absent q k off s hc, driveReadBeat_registry]

/-- Presenting a beat does not change which device it decodes to. -/
theorem readBeatTarget_presentReadBeat (q : Request) (k : Nat) (off : Addr) (s : State) :
    readBeatTarget q (presentReadBeat q k off s) = readBeatTarget q s := by
  have hranges : registryRanges (presentReadBeat q k off s).registry = registryRanges s.registry := by
    rcases presentReadBeat_registry q k off s with h | h <;> rw [h]
    exact registryRanges_readDevice _ _ _ _
  obtain ⟨c, hR⟩ := presentReadBeat_R q k off s
  have hbeat := beatDevice_of_ranges s _ q s.R.addr s.R.beat hranges (presentReadBeat_params q k off s)
  rw [readBeatTarget, readBeatAddr, hR]
  exact hbeat

/-! ## A `SENDING` evaluation: the handshake drives no wire and calls no device (R189) -/

theorem sendRead_out_valid (q : Request) (s : State) (k : Nat) (off : Addr) (ht : readBeatTarget q s = some (k, off)) :
    (sendRead q s).out = (presentReadBeat q k off s).out := by
  cases hr : s.inp.rready with
  | false => rw [sendRead_valid_stalled q s k off ht hr]
  | true => rw [sendRead_valid_ready q s k off ht hr, acknowledgeReadBeat_out]

theorem sendRead_registry_valid (q : Request) (s : State) (k : Nat) (off : Addr)
    (ht : readBeatTarget q s = some (k, off)) :
    (sendRead q s).registry = (presentReadBeat q k off s).registry := by
  cases hr : s.inp.rready with
  | false => rw [sendRead_valid_stalled q s k off ht hr]
  | true => rw [sendRead_valid_ready q s k off ht hr, acknowledgeReadBeat_registry]

theorem sendRead_out_rdata (q : Request) (s : State) (k : Nat) (off : Addr) (ht : readBeatTarget q s = some (k, off)) :
    (sendRead q s).out.rdata = readBeatValue q k off s := by
  rw [sendRead_out_valid q s k off ht, presentReadBeat_out_rdata]

/-- A valid beat whose value is cached calls no device (R186). -/
theorem sendRead_registry_cached (q : Request) (s : State) (k : Nat) (off : Addr) (v : Data)
    (ht : readBeatTarget q s = some (k, off)) (hc : s.R.cache = some v) : (sendRead q s).registry = s.registry := by
  rw [sendRead_registry_valid q s k off ht, presentReadBeat_registry_cached q k off s v hc]

/-- The first evaluation of a valid beat reads its device (R186). -/
theorem sendRead_registry_absent (q : Request) (s : State) (k : Nat) (off : Addr)
    (ht : readBeatTarget q s = some (k, off)) (hc : s.R.cache = none) :
    (sendRead q s).registry = (readDevice s.registry k off q.size).2 := by
  rw [sendRead_registry_valid q s k off ht, presentReadBeat_registry_absent q k off s hc]

theorem sendRead_out_invalid (q : Request) (s : State) (ht : readBeatTarget q s = none) :
    (sendRead q s).out = (readDecodeError s).out := by
  cases hr : s.inp.rready with
  | false => rw [sendRead_invalid_stalled q s ht hr]
  | true => rw [sendRead_invalid_ready q s ht hr, acknowledgeReadBeat_out]

theorem sendRead_registry_invalid (q : Request) (s : State) (ht : readBeatTarget q s = none) :
    (sendRead q s).registry = s.registry := by
  cases hr : s.inp.rready with
  | false => rw [sendRead_invalid_stalled q s ht hr, readDecodeError_registry]
  | true => rw [sendRead_invalid_ready q s ht hr, acknowledgeReadBeat_registry, readDecodeError_registry]

/-- Every beat, valid or not, drives `rvalid` and the latched id, and `arready` low (R182). -/
theorem sendRead_out_handshake (q : Request) (s : State) :
    (sendRead q s).out.arready = false ∧ (sendRead q s).out.rvalid = true ∧ (sendRead q s).out.rid = s.R.id := by
  cases ht : readBeatTarget q s with
  | none =>
    rw [sendRead_out_invalid q s ht]
    exact ⟨rfl, rfl, rfl⟩
  | some p =>
    rw [sendRead_out_valid q s p.1 p.2 ht]
    exact ⟨presentReadBeat_out_arready .., presentReadBeat_out_rvalid .., presentReadBeat_out_rid ..⟩

theorem sendRead_sameWriteWires (q : Request) (s : State) : sameWriteWires (sendRead q s).out s.out := by
  cases ht : readBeatTarget q s with
  | none =>
    rw [sendRead_out_invalid q s ht]
    exact ⟨rfl, rfl, rfl, rfl, rfl⟩
  | some p =>
    rw [sendRead_out_valid q s p.1 p.2 ht]
    exact presentReadBeat_sameWriteWires q p.1 p.2 s

/-- The register at a handshake: the burst is over after a decode error or the last beat, else the next beat is due (R189). -/
theorem sendRead_R_ready (q : Request) (s : State) (hr : s.inp.rready = true) :
    (sendRead q s).R =
      if readBeatTarget q s = none ∨ s.R.beat = q.len.toNat then { s.R with cache := none, state := .idle }
      else { s.R with cache := none, beat := s.R.beat + 1 } := by
  rcases sendRead_R q s with ⟨hlow, -⟩ | ⟨-, hend, hR⟩ | ⟨-, hvalid, hmore, hR⟩
  · rw [hr] at hlow
    cases hlow
  · rw [hR, if_pos hend]
  · rw [hR, if_neg (not_or.mpr ⟨Option.isSome_iff_ne_none.mp hvalid, hmore⟩)]

/-- The monitor at a handshake: a locked beat reserves, a decode-error beat only under `RESERVE_ON_DECERR` (R190). -/
theorem sendRead_M_ready (q : Request) (s : State) (hr : s.inp.rready = true) :
    (sendRead q s).M =
      if q.lock = true ∧ (readBeatTarget q s ≠ none ∨ s.params.reserveOnDecErr = true) then
        s.M.reserve (readBeatAddr q s) q.size
      else s.M := by
  cases ht : readBeatTarget q s with
  | none =>
    rw [sendRead_invalid_ready q s ht hr]
    simp
  | some p =>
    rw [sendRead_valid_ready q s p.1 p.2 ht hr]
    simp

/-- A stalled beat leaves the monitor (R188). -/
theorem sendRead_M_stalled (q : Request) (s : State) (hr : s.inp.rready = false) : (sendRead q s).M = s.M := by
  cases ht : readBeatTarget q s with
  | none => rw [sendRead_invalid_stalled q s ht hr, readDecodeError_M]
  | some p => rw [sendRead_valid_stalled q s p.1 p.2 ht hr, presentReadBeat_M]

/-- A stalled invalid beat leaves the register (R187, R188). -/
theorem sendRead_R_invalid_stalled (q : Request) (s : State) (ht : readBeatTarget q s = none)
    (hr : s.inp.rready = false) : (sendRead q s).R = s.R := by
  rw [sendRead_invalid_stalled q s ht hr, readDecodeError_R]

/-- The register after an invalid beat: the burst is over at its handshake, whatever `len` is (R189). -/
theorem sendRead_R_invalid (q : Request) (s : State) (ht : readBeatTarget q s = none) :
    (sendRead q s).R = if s.inp.rready then { s.R with cache := none, state := .idle } else s.R := by
  cases hr : s.inp.rready with
  | false => exact sendRead_R_invalid_stalled q s ht hr
  | true => exact (sendRead_R_ready q s hr).trans (if_pos (.inl ht))

/-- The monitor after an invalid beat: a locked one reserves at its handshake under `RESERVE_ON_DECERR` (R190). -/
theorem sendRead_M_invalid (q : Request) (s : State) (ht : readBeatTarget q s = none) :
    (sendRead q s).M =
      if s.inp.rready && q.lock && s.params.reserveOnDecErr then s.M.reserve (readBeatAddr q s) q.size else s.M := by
  cases hr : s.inp.rready with
  | false => exact sendRead_M_stalled q s hr
  | true => simp [sendRead_M_ready q s hr, ht]

/-- A stalled valid beat keeps its value in the cache and leaves the rest of the register (R186, R188). -/
theorem sendRead_R_valid_stalled (q : Request) (s : State) (k : Nat) (off : Addr)
    (ht : readBeatTarget q s = some (k, off)) (hr : s.inp.rready = false) :
    (sendRead q s).R = { s.R with cache := some (readBeatValue q k off s) } := by
  rw [sendRead_valid_stalled q s k off ht hr, presentReadBeat_R_eq]

/-! ## A read kind's evaluation -/

/-- A read evaluation leaves the write side. -/
theorem evalRead_readSideOnly (q : Request) (s : State) : readSideOnly s (evalRead q s) := by
  obtain ⟨hparams, hW, hinp, hscript, hdraws⟩ := evalRead_frame q s
  refine ⟨hparams, hW, hinp, hscript, hdraws, ?_⟩
  cases hs : s.R.state with
  | idle =>
    rw [evalRead_idle q s hs]
    exact ⟨rfl, rfl, rfl, rfl, rfl⟩
  | sending =>
    rw [evalRead_sending q s hs]
    exact sendRead_sameWriteWires q s

/-- A read kind at a `SENDING` engine is a beat of its request, and leaves the write side. -/
theorem exec_read_sending (i : Instr) (s : State) (hdir : i.request.dir = false) (hs : s.R.state = .sending) :
    exec i s = .next (sendRead i.request s) ∧ readSideOnly s (sendRead i.request s) := by
  have hside := evalRead_readSideOnly i.request s
  rw [evalRead_sending _ s hs] at hside
  exact ⟨by rw [exec_read i s hdir, evalRead_sending _ s hs], hside⟩

/-! ## Evaluations of a stalled beat (R58, R188) -/

/-- Once its value is cached, a stalled valid beat is presented again and again: no device is called, the register stays. -/
theorem execTimes_of_cached (n : Nat) (i : Instr) (s : State) (k : Nat) (off : Addr) (v : Data)
    (hdir : i.request.dir = false) (hs : s.R.state = .sending) (hcache : s.R.cache = some v)
    (htarget : readBeatTarget i.request s = some (k, off)) (hready : s.inp.rready = false) (hdata : s.out.rdata = v) :
    ∃ t, execTimes i n s = .next t ∧ t.registry = s.registry ∧ t.out.rdata = v ∧ t.R = s.R := by
  induction n generalizing s with
  | zero => exact ⟨s, rfl, rfl, hdata, rfl⟩
  | succ n ih =>
    obtain ⟨hexec, -⟩ := exec_read_sending i s hdir hs
    rw [sendRead_valid_stalled _ s k off htarget hready, presentReadBeat_cached _ k off s v hcache] at hexec
    simp only [execTimes, hexec, thenDo]
    exact ih (driveReadBeat s v _ _) hs hcache htarget hready rfl

end Sys2Proof.Machine
end

section
/-!
PROOFS. The engines' wires over one edge (43_read_engine.md R180, R182; 44_write_engine.md R210, R212, R217), and a stalled read
beat over any number of edges (43_read_engine.md R188; 70_reset_and_hazards.md R284).
-/

namespace Sys2Proof.Machine

open Sys2Proof.Safety

/-! ## Ready and valid wires of the two evaluations -/

/-- The read channels' handshake wires say the state the read engine was in, and a beat carries its id (R180, R182). -/
theorem readPart_out_handshake (s : State) :
    (readPart s).out.arready = decide (s.R.state = .idle) ∧ (readPart s).out.rvalid = decide (s.R.state = .sending) ∧
      (s.R.state = .sending → (readPart s).out.rid = s.R.id) := by
  cases hs : s.R.state with
  | idle =>
    cases hv : s.inp.arvalid with
    | true =>
      rw [readPart_accept s hs hv]
      exact ⟨rfl, rfl, nofun⟩
    | false =>
      rw [readPart_wait s hs hv]
      exact ⟨rfl, rfl, nofun⟩
  | sending =>
    obtain ⟨hready, hvalid, hid⟩ := sendRead_out_handshake (readLatched s.R) s
    rw [readPart_sending s hs]
    exact ⟨hready, hvalid, fun _ => hid⟩

/-- A data phase's wires are driven before its beat is looked at (R212). -/
theorem acceptWriteData_out (q : Request) (s : State) :
    (acceptWriteData q s).out = (driveWriteOpen s false true).out := by
  cases hv : s.inp.wvalid with
  | false => rw [acceptWriteData_none q s hv]
  | true =>
    cases ht : writeBeatTarget q s with
    | none => rw [acceptWriteData_invalid q s ht hv, writeDecodeError_out]
    | some p => rw [acceptWriteData_valid q s p.1 p.2 ht hv, takeWriteBeat_out]

theorem respondWrite_out (s : State) : (respondWrite s).out = (driveWriteResponse s).out := by
  unfold respondWrite
  cases s.inp.bready <;> rfl

/-- The write channels' handshake wires say the state the write engine was in, and a response carries its id and the pending
code (R210, R212, R217). -/
theorem writePart_out_handshake (s : State) :
    (writePart s).out.awready = decide (s.W.state = .idle) ∧
      (writePart s).out.wready = decide (s.W.state = .acceptingData) ∧
      (writePart s).out.bvalid = decide (s.W.state = .responding) ∧
      (s.W.state = .responding →
        (writePart s).out.bid = s.W.id ∧ (writePart s).out.bresp = s.W.pending.code) := by
  cases hs : s.W.state with
  | idle =>
    cases hv : s.inp.awvalid with
    | true =>
      rw [writePart_accept s hs hv]
      exact ⟨rfl, rfl, rfl, nofun⟩
    | false =>
      rw [writePart_wait s hs hv]
      exact ⟨rfl, rfl, rfl, nofun⟩
  | acceptingData =>
    rw [writePart_data s hs, acceptWriteData_out]
    exact ⟨rfl, rfl, rfl, nofun⟩
  | responding =>
    rw [writePart_responding s hs, respondWrite_out]
    exact ⟨rfl, rfl, rfl, fun _ => ⟨rfl, rfl⟩⟩

/-! ## The read side of an edge -/

section
variable {s t : State} (hstep : step s = .next t)
include hstep

/-- The read register after an edge is the read evaluation's. -/
theorem step_R : t.R = (readPart (beginEdge s)).R := by
  obtain rfl := (step_eq_next_iff s t).mp hstep
  obtain ⟨-, hR, -⟩ := writePart_frame (readPart (beginEdge s))
  rw [endEdge_R, hR]

/-- The read channels' wires after an edge are the read evaluation's. -/
theorem step_out_join : (readPart (beginEdge s)).out.join t.out = t.out := by
  obtain rfl := (step_eq_next_iff s t).mp hstep
  exact writePart_out_join (readPart (beginEdge s))

/-- The wires of the next edge are the next sample of the script. -/
theorem step_wires : t.inp = s.script.headD .quiet ∧ t.script = s.script.tail := by
  obtain rfl := (step_eq_next_iff s t).mp hstep
  obtain ⟨-, -, -, hwrite, -⟩ := writePart_frame (readPart (beginEdge s))
  obtain ⟨-, -, -, hread, -⟩ := readPart_frame (beginEdge s)
  simp only [endEdge_inp, endEdge_script, hwrite, hread, beginEdge_script, and_self]

/-- A beat decodes to the same device after an edge (R24). -/
theorem beatDevice_step (q : Request) (start : Addr) (beat : Nat) :
    beatDevice t q start beat = beatDevice s q start beat := by
  obtain ⟨hranges, hparams⟩ := Proofs.registryAndParametersNeverChange s t hstep
  exact beatDevice_of_ranges s t q start beat hranges hparams

/-- A run goes on from where its first edge ends. -/
theorem run_succ_of_step (n : Nat) :
    Host.Core.run Sys2Proof.core (n + 1) s = Host.Core.run Sys2Proof.core n t := by
  rw [run_succ, (step_eq_next_iff s t).mp hstep]

end

/-! ## A stalled beat over edges (R188, R284) -/

/-- The read engine is at a valid beat: its device and offset. -/
structure AtReadBeat (s : State) (k : Nat) (off : Addr) : Prop where
  sending : s.R.state = .sending
  target : beatDevice s (readLatched s.R) s.R.addr s.R.beat = some (k, off)

/-- The device steps leave the engine at its beat. -/
theorem AtReadBeat.after_beginEdge {s : State} {k : Nat} {off : Addr} (h : AtReadBeat s k off) :
    AtReadBeat (beginEdge s) k off :=
  ⟨h.sending, (beatDevice_beginEdge s _ _ _).trans h.target⟩

/-- The read evaluation at a valid beat presents its value; where that is cached, no device is called (R185, R186). -/
theorem AtReadBeat.presents {s : State} {k : Nat} {off : Addr} (h : AtReadBeat s k off) :
    (readPart s).out.rvalid = true ∧ (readPart s).out.rdata = readBeatValue (readLatched s.R) k off s ∧
      (∀ v, s.R.cache = some v → (readPart s).registry = s.registry) ∧
      (s.inp.rready = false →
        (readPart s).R = { s.R with cache := some (readBeatValue (readLatched s.R) k off s) }) := by
  obtain ⟨-, hvalid, -⟩ := sendRead_out_handshake (readLatched s.R) s
  rw [readPart_sending s h.sending]
  exact ⟨hvalid, sendRead_out_rdata _ s k off h.target, fun v => sendRead_registry_cached _ s k off v h.target,
    sendRead_R_valid_stalled _ s k off h.target⟩

/-- A stalled edge: the beat's value is on the wires and in the cache after it, and the engine is at the same beat. -/
theorem AtReadBeat.step_stalled {s t : State} {k : Nat} {off : Addr} (h : AtReadBeat s k off) (hready : s.inp.rready = false)
    (hstep : step s = .next t) :
    t.out.rvalid = true ∧ t.out.rdata = readBeatValue (readLatched s.R) k off (beginEdge s) ∧
      t.R = { s.R with cache := some (readBeatValue (readLatched s.R) k off (beginEdge s)) } ∧
      AtReadBeat t k off := by
  obtain ⟨hvalid, hdata, -, hstalled⟩ := h.after_beginEdge.presents
  have hR := (step_R hstep).trans (hstalled hready)
  have hout := step_out_join hstep
  refine ⟨?_, ?_, hR, ?_, ?_⟩
  · rw [← hout]; exact hvalid
  · rw [← hout]; exact hdata
  · rw [hR]; exact h.sending
  · rw [hR, beatDevice_step hstep]; exact h.target

/-- The master holds `rready` low for the next `n` edges. -/
def StallsReads (n : Nat) (s : State) : Prop := ∀ j, j < n → ∃ w, (s.inp :: s.script)[j]? = some w ∧ w.rready = false

theorem StallsReads.rready {n : Nat} {s : State} (h : StallsReads (n + 1) s) : s.inp.rready = false := by
  obtain ⟨w, hw, hlow⟩ := h 0 n.succ_pos
  obtain rfl : s.inp = w := Option.some.inj hw
  exact hlow

theorem stallsReads_succ {n : Nat} {s : State} (hready : s.inp.rready = false)
    (hscript : ∀ j, j < n → ∃ w, s.script[j]? = some w ∧ w.rready = false) : StallsReads (n + 1) s := by
  intro j hj
  cases j with
  | zero => exact ⟨s.inp, rfl, hready⟩
  | succ j => exact hscript j (Nat.lt_of_succ_lt_succ hj)

/-- An edge brings the samples one place forward. -/
theorem StallsReads.step {n : Nat} {s t : State} (h : StallsReads (n + 1) s) (hstep : step s = .next t) :
    StallsReads n t := by
  intro j hj
  obtain ⟨w, hw, hlow⟩ := h (j + 1) (Nat.succ_lt_succ hj)
  obtain ⟨hinp, hscript⟩ := step_wires hstep
  refine ⟨w, ?_, hlow⟩
  rw [hinp, hscript, ← hw]
  cases hs : s.script with
  | nil => simp [hs] at hw
  | cons a rest => rfl

/-- A run over stalled edges at a cached beat ends at that beat, its value on the wires and the register as it was. -/
theorem run_of_cached {n : Nat} {s : State} {k : Nat} {off : Addr} {v : Data} (hat : AtReadBeat s k off)
    (hcache : s.R.cache = some v) (hvalid : s.out.rvalid = true) (hdata : s.out.rdata = v) (hstalls : StallsReads n s) :
    ∃ t : State, Host.Core.run Sys2Proof.core n s = .next t ∧ AtReadBeat t k off ∧ t.out.rvalid = true ∧ t.out.rdata = v ∧
      t.R = s.R := by
  induction n generalizing s with
  | zero => exact ⟨s, run_zero s, hat, hvalid, hdata, rfl⟩
  | succ n ih =>
    obtain ⟨u, hstep⟩ : ∃ u, step s = .next u := ⟨_, step_eq s⟩
    obtain ⟨huvalid, hudata, huR, huat⟩ := hat.step_stalled hstalls.rready hstep
    rw [readBeatValue_cached (readLatched s.R) k off (beginEdge s) v hcache] at hudata huR
    have hsame : u.R = s.R := by rw [huR, ← hcache]
    rw [run_succ_of_step hstep, ← hsame]
    exact ih huat (hsame ▸ hcache) huvalid hudata (hstalls.step hstep)

end Sys2Proof.Machine
end

section
/-!
PROOFS. The statements of 43_read_engine.md, the wires of both engines, and the stalled beat of 70_reset_and_hazards.md.
-/

namespace Sys2Proof.Proofs

open Sys2Proof.Machine Sys2Proof.Safety

/-- Settles O25: the first evaluation reads the device and caches the value; the others find it cached. -/
theorem stalledBeatReadsItsDeviceOnce : Obligations.StalledBeatReadsItsDeviceOnce := by
  intro n i s k off g hdir hs hcache htarget hg hready
  obtain ⟨hexec, -⟩ := exec_read_sending i s hdir hs
  rw [sendRead_valid_stalled _ s k off htarget hready] at hexec
  have hvalue := readBeatValue_absent i.request k off s g hcache hg
  have hreg := presentReadBeat_registry_absent i.request k off s hcache
  have hR := presentReadBeat_R_eq i.request k off s
  rw [hvalue] at hR
  have hkept := (readBeatTarget_presentReadBeat i.request k off s).trans htarget
  obtain ⟨t, hrun, htreg, htdata, htR⟩ :=
    execTimes_of_cached n i (presentReadBeat i.request k off s) k off (g.dev.read off i.request.size).1 hdir
      (by rw [hR, hs]) (by rw [hR]) hkept (by rw [presentReadBeat_inp, hready])
      (by rw [presentReadBeat_out_rdata, hvalue])
  exact ⟨t, by simp only [execTimes, hexec, thenDo, hrun], htreg.trans hreg, htdata, htR.trans hR⟩

/-- Settles O45: each evaluation drives its own channels' wires by its engine's state, which the actions before it leave. -/
theorem handshakeWiresFollowTheState : Obligations.HandshakeWiresFollowTheState := by
  intro s t hstep
  obtain ⟨harready, hrvalid, hrid⟩ := readPart_out_handshake (beginEdge s)
  obtain ⟨hawready, hwready, hbvalid, hresp⟩ := writePart_out_handshake (readPart (beginEdge s))
  obtain ⟨-, hW, -⟩ := readPart_frame (beginEdge s)
  rw [hW] at hawready hwready hbvalid hresp
  have hread := step_out_join hstep
  obtain rfl := (step_eq_next_iff s t).mp hstep
  rw [← hread]
  exact ⟨harready, hrvalid, hawready, hwready, hbvalid, hrid, hresp⟩

/-- Settles O60: the first edge reads the device and caches the value; every later one, and the read evaluation after them,
finds it cached. -/
theorem stalledValueStaysOverEdges : Obligations.StalledValueStaysOverEdges := by
  rintro n s k off g v hs hcache htarget hg rfl hready hscript
  obtain ⟨u, hstep⟩ : ∃ u, step s = .next u := ⟨_, step_eq s⟩
  have hat : AtReadBeat s k off := ⟨hs, htarget⟩
  have hvalue : readBeatValue (readLatched s.R) k off (beginEdge s) = (g.dev.read off s.R.size).1 :=
    readBeatValue_absent (readLatched s.R) k off (beginEdge s) g hcache hg
  have hstalls : StallsReads (n + 1) s := stallsReads_succ hready hscript
  obtain ⟨huvalid, hudata, huR, huat⟩ := hat.step_stalled hready hstep
  rw [hvalue] at hudata huR
  obtain ⟨t, hrun, htat, htvalid, htdata, htR⟩ :=
    run_of_cached huat (by rw [huR]) huvalid hudata (hstalls.step hstep)
  rw [huR] at htR
  have htcache : (beginEdge t).R.cache = some (g.dev.read off s.R.size).1 := by rw [beginEdge_R, htR]
  obtain ⟨hnvalid, hndata, hnreg, -⟩ := htat.after_beginEdge.presents
  rw [readBeatValue_cached _ k off (beginEdge t) _ htcache] at hndata
  exact ⟨t, (run_succ_of_step hstep n).trans hrun, htvalid, htdata, htR, readPart (beginEdge t), runRead_eq _,
    hnreg _ htcache, hnvalid, hndata⟩

/-- Settles O20: acceptance drives the idle wires and writes the register alone; without a request only the wires are driven. -/
theorem readRequestIsAccepted : Obligations.ReadRequestIsAccepted := by
  constructor
  · intro i s hdir hs hid
    have hside := evalRead_readSideOnly i.request s
    rw [evalRead_idle _ s hs] at hside
    exact ⟨acceptRead i.request s, by rw [exec_read i s hdir, evalRead_idle _ s hs], acceptRead_R i.request s hid,
      rfl, rfl, rfl, rfl, hside⟩
  · intro s hs hvalid
    exact ⟨driveReadIdle s, by rw [runRead_eq, readPart_wait s hs hvalid], rfl, rfl, rfl, rfl, rfl,
      rfl, rfl, rfl, rfl, rfl, rfl, rfl, rfl, rfl, rfl⟩

/-- Settles O21: the evaluation presents the beat's value, cached or read; the handshake changes neither wires nor devices. -/
theorem validReadBeatIsPresented : Obligations.ValidReadBeatIsPresented := by
  intro i s k off g hdir hs htarget hg
  obtain ⟨hexec, hside⟩ := exec_read_sending i s hdir hs
  obtain ⟨harready, hrvalid, hrid⟩ := sendRead_out_handshake i.request s
  have hout := sendRead_out_valid i.request s k off htarget
  have hdata := sendRead_out_rdata i.request s k off htarget
  refine ⟨_, hexec, harready, hrvalid, hrid, fun hcache => ?_, fun v hcache => ?_, fun hready => ?_, ?_, ?_, hside⟩
  · obtain ⟨-, hdev⟩ := readDevice_spec s.registry k off i.request.size g hg
    rw [hdata, readBeatValue_absent _ k off s g hcache hg, sendRead_registry_absent _ s k off htarget hcache]
    exact ⟨rfl, rfl, hdev⟩
  · exact ⟨hdata.trans (readBeatValue_cached _ k off s v hcache), sendRead_registry_cached _ s k off v htarget hcache⟩
  · rw [hdata, sendRead_R_valid_stalled _ s k off htarget hready]
  · rw [hout, presentReadBeat_out_rresp, readBeatResp_code]
  · rw [hout, presentReadBeat_out_rlast]

/-- Settles O22: the register and the monitor at a handshake, the beat's target and address being the engine's own. -/
theorem readHandshakeEndsOrAdvancesTheBurst : Obligations.ReadHandshakeEndsOrAdvancesTheBurst := by
  intro i s hdir hs hready
  obtain ⟨hexec, hside⟩ := exec_read_sending i s hdir hs
  exact ⟨_, hexec, sendRead_R_ready i.request s hready, sendRead_M_ready i.request s hready, hside⟩

/-- Settles O23: by what the beat decodes to and whether its value is cached. -/
theorem stalledReadBeatKeepsItsPlace : Obligations.StalledReadBeatKeepsItsPlace := by
  intro i s hdir hs hready
  obtain ⟨hexec, hside⟩ := exec_read_sending i s hdir hs
  obtain ⟨harready, hrvalid, -⟩ := sendRead_out_handshake i.request s
  refine ⟨_, hexec, sendRead_M_stalled i.request s hready, hside, hrvalid, harready, fun hnone => ?_,
    fun k off v htarget hcache => ?_, fun k off g htarget hcache hg => ?_⟩
  · exact ⟨sendRead_R_invalid_stalled _ s hnone hready, sendRead_registry_invalid _ s hnone⟩
  · have hvalue := readBeatValue_cached i.request k off s v hcache
    exact ⟨by rw [sendRead_R_valid_stalled _ s k off htarget hready, hvalue, ← hcache],
      sendRead_registry_cached _ s k off v htarget hcache, (sendRead_out_rdata _ s k off htarget).trans hvalue⟩
  · have hvalue := readBeatValue_absent i.request k off s g hcache hg
    exact ⟨by rw [sendRead_R_valid_stalled _ s k off htarget hready, hvalue],
      sendRead_registry_absent _ s k off htarget hcache, (sendRead_out_rdata _ s k off htarget).trans hvalue⟩

/-- Settles O24: a decode error drives fixed wires and calls no device; its handshake ends the burst whatever `len` is. -/
theorem readDecodeErrorEndsTheBurst : Obligations.ReadDecodeErrorEndsTheBurst := by
  intro i s hdir hs hnone
  obtain ⟨hexec, hside⟩ := exec_read_sending i s hdir hs
  have hout := sendRead_out_invalid i.request s hnone
  exact ⟨_, hexec, congrArg (·.rvalid) hout, congrArg (·.rid) hout, congrArg (·.rdata) hout, congrArg (·.rlast) hout,
    congrArg (·.rresp) hout, sendRead_registry_invalid _ s hnone, sendRead_R_invalid _ s hnone,
    sendRead_M_invalid _ s hnone, hside⟩

end Sys2Proof.Proofs
end

section
/-!
PROOFS. One evaluation of the write engine (44_write_engine.md): what an acceptance, a data phase, a taken beat and a response
each write, and that none of them touches the read side.
-/

namespace Sys2Proof.Machine

open Sys2Proof.Safety

/-! ## Acceptance (R211) -/

/-- The register after an acceptance of an id that fits its wire: the request's fields, beat 0 due, the pending response as it
was. -/
theorem acceptWrite_W (q : Request) (s : State) (hid : s.inp.awid < 2 ^ s.params.idWidth) :
    (acceptWrite q s).W =
      { s.W with
        state := .acceptingData
        beat := 0
        addr := s.inp.awaddr
        size := q.size
        burst := q.burst
        id := s.inp.awid
        len := q.len
        lock := q.lock } := by
  simp only [acceptWrite, Params.fitId, Nat.mod_eq_of_lt hid]

/-! ## A taken data beat (R214, R216) -/

theorem writeReaches_iff (lock hit : Bool) : writeReaches lock hit = true ↔ lock = false ∨ hit = true := by
  simp [writeReaches]

/-- The register after a taken beat: the response is pending, and `wlast` alone decides whether the data phase is over (R216). -/
theorem takeWriteBeat_W (q : Request) (a : Addr) (k : Nat) (off : Addr) (s : State) :
    (takeWriteBeat q a k off s).W =
      if s.inp.wlast then { s.W with pending := writeBeatResp q.lock (s.M.hit a), state := .responding }
      else { s.W with pending := writeBeatResp q.lock (s.M.hit a), beat := s.W.beat + 1 } := rfl

/-- A beat that reaches its device leaves there the device's state after the write (R214). -/
theorem takeWriteBeat_device (q : Request) (a : Addr) (k : Nat) (off : Addr) (s : State) (g : Registration)
    (hg : s.registry[k]? = some g) (hreach : writeReaches q.lock (s.M.hit a) = true) :
    (takeWriteBeat q a k off s).registry[k]? =
      some { g with dev := (g.dev.write off s.inp.wdata q.size s.inp.wstrb).dev } := by
  rw [takeWriteBeat_registry, if_pos hreach, writeDevice_spec _ _ _ _ _ _ g hg]

/-! ## A response (R217, R218) -/

@[simp] theorem respondWrite_M (s : State) : (respondWrite s).M = s.M := by
  unfold respondWrite
  cases s.inp.bready <;> rfl

@[simp] theorem respondWrite_registry (s : State) : (respondWrite s).registry = s.registry := by
  unfold respondWrite
  cases s.inp.bready <;> rfl

/-! ## A write kind's evaluation -/

theorem driveWriteOpen_sameReadWires (s : State) (awready wready : Bool) :
    sameReadWires (driveWriteOpen s awready wready).out s.out :=
  ⟨rfl, rfl, rfl, rfl, rfl, rfl⟩

/-- A write evaluation drives no wire of the read channels. -/
theorem evalWrite_sameReadWires (q : Request) (s : State) : sameReadWires (evalWrite q s).out s.out := by
  cases hs : s.W.state with
  | idle =>
    rw [evalWrite_idle q s hs]
    exact driveWriteOpen_sameReadWires s true false
  | acceptingData =>
    rw [evalWrite_accepting q s hs, acceptWriteData_out]
    exact driveWriteOpen_sameReadWires s false true
  | responding =>
    rw [evalWrite_responding q s hs, respondWrite_out]
    exact ⟨rfl, rfl, rfl, rfl, rfl, rfl⟩

/-- A write evaluation leaves the read side. -/
theorem evalWrite_writeSideOnly (q : Request) (s : State) : writeSideOnly s (evalWrite q s) := by
  obtain ⟨hparams, hR, hinp, hscript, hdraws⟩ := evalWrite_frame q s
  exact ⟨hparams, hR, hinp, hscript, hdraws, evalWrite_sameReadWires q s⟩

/-- Every write kind is one evaluation of the write engine for its request, and leaves the read side. -/
theorem exec_write_of_evalWrite {i : Instr} {s t : State} (hdir : i.request.dir = true)
    (heval : evalWrite i.request s = t) : exec i s = .next t ∧ writeSideOnly s t := by
  subst heval
  exact ⟨exec_write i s hdir, evalWrite_writeSideOnly i.request s⟩

end Sys2Proof.Machine
end

section
/-!
PROOFS. The statements of 44_write_engine.md: the write engine by its state and by what its data beat decodes to.
-/

namespace Sys2Proof.Proofs

open Sys2Proof.Machine Sys2Proof.Safety

/-- Settles O26: acceptance drives the idle wires and writes the register alone; without a request only the wires are driven. -/
theorem writeRequestIsAccepted : Obligations.WriteRequestIsAccepted := by
  constructor
  · intro i s hdir hs hid
    obtain ⟨hexec, hside⟩ := exec_write_of_evalWrite hdir (evalWrite_idle i.request s hs)
    exact ⟨_, hexec, acceptWrite_W i.request s hid, rfl, rfl, rfl, rfl, rfl, hside⟩
  · intro s hs hvalid
    exact ⟨driveWriteOpen s true false, by rw [runWrite_eq, writePart_wait s hs hvalid], rfl, rfl, rfl, rfl, rfl, rfl,
      rfl, rfl, rfl, rfl, rfl, driveWriteOpen_sameReadWires s true false⟩

/-- Settles O27: the wires are driven before the beat is looked at, and without one nothing else happens. -/
theorem dataPhaseDrivesReadyAndWaits : Obligations.DataPhaseDrivesReadyAndWaits := by
  intro i s hdir hs
  obtain ⟨hexec, hside⟩ := exec_write_of_evalWrite hdir (evalWrite_accepting i.request s hs)
  have hout := acceptWriteData_out i.request s
  refine ⟨_, hexec, congrArg (·.awready) hout, congrArg (·.wready) hout, congrArg (·.bvalid) hout, fun hvalid => ?_, hside⟩
  rw [acceptWriteData_none _ s hvalid]
  exact ⟨rfl, rfl, rfl⟩

/-- Settles O28: the evaluation takes the beat, its reservation match read from the monitor before the clearing. -/
theorem validWriteBeatIsTaken : Obligations.ValidWriteBeatIsTaken := by
  rintro i s k off g _ _ hdir hs hvalid rfl rfl htarget hg
  obtain ⟨hexec, hside⟩ := exec_write_of_evalWrite hdir (evalWrite_valid_beat i.request s k off hs hvalid htarget)
  refine ⟨_, hexec, rfl, rfl, rfl, rfl, ?_, fun hreach => ?_, ?_, hside⟩
  · simp only [takeWriteBeat_registry, writeReaches_iff, driveWriteOpen_registry, driveWriteOpen_M, driveWriteOpen_inp]
  · exact takeWriteBeat_device _ _ k off _ g hg ((writeReaches_iff _ _).mpr hreach)
  · exact takeWriteBeat_W _ _ k off _

/-- Settles O29: an invalid beat is the decode error, which asks neither for `wlast` nor for the monitor. -/
theorem writeDecodeErrorAbortsTheBurst : Obligations.WriteDecodeErrorAbortsTheBurst := by
  intro i s hdir hs hvalid hnone
  have heval : evalWrite i.request s = writeDecodeError (driveWriteOpen s false true) := by
    rw [evalWrite_accepting _ s hs, acceptWriteData_invalid _ s hnone hvalid]
  obtain ⟨hexec, hside⟩ := exec_write_of_evalWrite hdir heval
  exact ⟨_, hexec, rfl, rfl, rfl, rfl, rfl, hside⟩

/-- Settles O30: the wires are those of the response whatever `bready` is; the handshake changes the engine's state alone. -/
theorem writeResponseIsOffered : Obligations.WriteResponseIsOffered := by
  intro i s hdir hs
  obtain ⟨hexec, hside⟩ := exec_write_of_evalWrite hdir (evalWrite_responding i.request s hs)
  have hout := respondWrite_out s
  exact ⟨_, hexec, congrArg (·.bvalid) hout, congrArg (·.bresp) hout, congrArg (·.bid) hout, congrArg (·.awready) hout,
    congrArg (·.wready) hout, respondWrite_W s, respondWrite_M s, respondWrite_registry s, hside⟩

end Sys2Proof.Proofs
end

section
/-!
PROOFS. What device accesses and device steps do over a whole registry (45_fabric_step.md R244 to R248): the bytes an access may
change, whom an interrupt call reaches, and the one step each device takes within an edge.
-/

namespace Sys2Proof.Machine

open Sys2Proof.Safety

/-! ## Bytes of one device (R244, R245, 95_test_vectors.md section 1) -/

/-- A `TRAM` write puts each selected lane inside the RAM at its offset: no later lane goes to the same offset. -/
theorem tramStore_same (length : Nat) (mem : Memory) (off : Nat) (v : Data) (mask : Strobe) (n lane : Nat) (hwf : mem.wf)
    (hlane : lane < n) (hsel : mask.getLsbD lane = true) (hin : off + lane < length) :
    (tramStore length mem off v mask n).read (off + lane) = v.extractLsb' (8 * lane) 8 := by
  induction n with
  | zero => cases hlane
  | succ n ih =>
    rw [tramStore]
    rcases Nat.lt_succ_iff_lt_or_eq.mp hlane with hlt | rfl
    · split
      · rw [Memory.read_write_other _ _ _ _ (by omega), ih hlt]
      · exact ih hlt
    · rw [if_pos ⟨hsel, hin⟩, Memory.read_write_same _ _ _ (tramStore_wf _ _ _ _ _ _ hwf)]

theorem Device.byte_tram (length : Nat) (mem : Memory) (x : Nat) :
    (Device.tram length mem).byte x = if x < length then some (mem.read x) else none := rfl

theorem Device.mem_writtenOffsets_tram (length : Nat) (mem : Memory) (off : Addr) (size : SizeField) (mask : Strobe)
    (x : Nat) :
    x ∈ (Device.tram length mem).writtenOffsets off size mask ↔
      ∃ lane, lane < 2 ^ size.toNat ∧ lane < 8 ∧ mask.getLsbD lane = true ∧ x = off.toNat + lane := by
  simp only [Device.writtenOffsets, List.mem_map, List.mem_filter, List.mem_range, lt_min_iff, and_assoc, @eq_comm _ x]

/-- A device write leaves every byte that its mask does not select (R245). -/
theorem Device.byte_write_other (d : Device) (off : Addr) (v : Data) (size : SizeField) (mask : Strobe) (x : Nat)
    (hx : x ∉ d.writtenOffsets off size mask) : (d.write off v size mask).dev.byte x = d.byte x := by
  cases d with
  | tram length mem =>
    have hother : ∀ lane, lane < min (2 ^ size.toNat) 8 → mask.getLsbD lane = true → x ≠ off.toNat + lane := by
      rintro lane hlane hsel rfl
      obtain ⟨hsize, hdata⟩ := Nat.lt_min.mp hlane
      exact hx ((mem_writtenOffsets_tram ..).mpr ⟨lane, hsize, hdata, hsel, rfl⟩)
    simp only [Device.write, byte_tram, tramStore_other _ _ _ _ _ _ _ hother]
  | cnt c => rfl
  | tick t => rfl
  | outside o =>
    have hother : ∀ c ∈ outsideStores o off v size mask, x ≠ c.1 := by
      rintro c hc rfl
      obtain ⟨lane, hlane, rfl⟩ := List.mem_map.mp hc
      exact hx (List.mem_map.mpr ⟨lane, hlane, rfl⟩)
    exact congrArg some (Memory.read_writeAll_other _ o.mem x hother)

/-- A read changes no byte of a fixture. -/
theorem Device.byte_read_fixture (d : Device) (off : Addr) (size : SizeField) (x : Nat) (hd : ∀ o, d ≠ .outside o) :
    (d.read off size).2.dev.byte x = d.byte x := by
  cases d with
  | tram length mem => rfl
  | cnt c => rfl
  | tick t => rfl
  | outside o => exact absurd rfl (hd o)

theorem isController_fixture (d : Device) (hd : ∀ o, d ≠ .outside o) : isController d = false := by
  cases d with
  | tram length mem => rfl
  | cnt c => rfl
  | tick t => rfl
  | outside o => exact absurd rfl (hd o)

/-! ## Bytes in the registry (R244, R245, R247) -/

theorem byteAt_of_getElem? {reg : List Registration} {k : Nat} {g : Registration} (hg : reg[k]? = some g) (x : Nat) :
    byteAt reg k x = g.dev.byte x := by
  simp [byteAt, hg]

/-- A device write leaves the bytes its mask does not select, and every other device that is no interrupt controller. -/
theorem byteAt_writeDevice (reg : List Registration) (k : Nat) (off : Addr) (v : Data) (size : SizeField) (mask : Strobe)
    (g h : Registration) (j x : Nat) (hg : reg[k]? = some g) (hh : reg[j]? = some h)
    (hctl : j ≠ k → isController h.dev = false) (hx : j = k → x ∉ g.dev.writtenOffsets off size mask) :
    byteAt (writeDevice reg k off v size mask) j x = byteAt reg j x := by
  by_cases hjk : j = k
  · subst hjk
    rw [byteAt_of_getElem? (writeDevice_spec reg j off v size mask g hg), byteAt_of_getElem? hg]
    exact g.dev.byte_write_other off v size mask x (hx rfl)
  · rw [byteAt_of_getElem? (writeDevice_other reg k off v size mask j h hjk hh (hctl hjk)), byteAt_of_getElem? hh]

/-- A device read leaves every byte of every fixture. -/
theorem byteAt_readDevice_fixture (reg : List Registration) (k : Nat) (off : Addr) (size : SizeField) (h : Registration)
    (j x : Nat) (hh : reg[j]? = some h) (hd : ∀ o, h.dev ≠ .outside o) :
    byteAt (readDevice reg k off size).2 j x = byteAt reg j x := by
  by_cases hjk : j = k
  · subst hjk
    obtain ⟨-, hread⟩ := readDevice_spec reg j off size h hh
    rw [byteAt_of_getElem? hread, byteAt_of_getElem? hh]
    exact h.dev.byte_read_fixture off size x hd
  · rw [byteAt_of_getElem? (readDevice_other reg k off size j h hjk hh (isController_fixture _ hd)), byteAt_of_getElem? hh]

/-! ## One interrupt call (R247) -/

theorem deliverIrq_of_target_ne (caller : Nat) (reg : List Registration) (c : IrqCall) (j : Nat) (hj : c.target ≠ j) :
    (deliverIrq caller reg c)[j]? = reg[j]? := by
  unfold deliverIrq
  split
  · rfl
  · simp [hj]

theorem deliverIrq_target (caller : Nat) (reg : List Registration) (c : IrqCall) (g : Registration)
    (hcaller : c.target ≠ caller) (hg : reg[c.target]? = some g) :
    (deliverIrq caller reg c)[c.target]? = some { g with dev := g.dev.setInterruptLevel c.source c.level } := by
  rw [deliverIrq, if_neg hcaller, List.getElem?_modify_eq, hg]
  rfl

/-! ## The order of the device steps (R248) -/

theorem nodup_eraseDups (l : List Nat) : l.eraseDups.Nodup := by
  match l with
  | [] => simp
  | k :: rest =>
    have hshorter : (rest.filter fun j => !j == k).length < rest.length + 1 :=
      Nat.lt_succ_of_le (List.length_filter_le _ rest)
    rw [List.eraseDups_cons, List.nodup_cons]
    exact ⟨by simp, nodup_eraseDups _⟩
termination_by l.length

theorem mem_deviceOrder (n : Nat) (first : List Nat) (k : Nat) : k ∈ deviceOrder n first ↔ k < n := by
  by_cases hk : k ∈ first <;> simp [deviceOrder, hk]

/-- The devices named first are each once there, and the others are those not among them. -/
theorem nodup_deviceOrder (n : Nat) (first : List Nat) : (deviceOrder n first).Nodup := by
  refine List.Nodup.append (nodup_eraseDups _) (List.nodup_range.filter _) fun k hnamed hother => ?_
  obtain ⟨-, hnot⟩ := List.mem_filter.mp hother
  simp [hnamed] at hnot

theorem deviceOrder_perm (n : Nat) (first : List Nat) : (deviceOrder n first).Perm (List.range n) := by
  rw [List.perm_ext_iff_of_nodup (nodup_deviceOrder n first) List.nodup_range]
  simp [mem_deviceOrder]

theorem deviceOrder_nil (n : Nat) : deviceOrder n [] = List.range n := by
  simp [deviceOrder]

/-! ## The device steps of an edge (R246) -/

/-- Steps of other devices leave a device that is no interrupt controller. -/
theorem foldl_stepDevice_other (draw : Nat) (order : List Nat) (reg : List Registration) (k : Nat) (g : Registration)
    (hk : k ∉ order) (hg : reg[k]? = some g) (hctl : isController g.dev = false) :
    (order.foldl (stepDevice draw) reg)[k]? = some g := by
  induction order generalizing reg with
  | nil => exact hg
  | cons i rest ih =>
    obtain ⟨hki, hrest⟩ := not_or.mp (List.mem_cons.not.mp hk)
    exact ih (stepDevice draw reg i) hrest (stepDevice_other draw reg i k g hki hg hctl)

/-- A device named once in the order takes one step. -/
theorem foldl_stepDevice_of_mem (draw : Nat) (order : List Nat) (reg : List Registration) (k : Nat) (g : Registration)
    (hk : k ∈ order) (hnodup : order.Nodup) (hg : reg[k]? = some g) (hctl : isController g.dev = false) :
    (order.foldl (stepDevice draw) reg)[k]? = some { g with dev := (g.dev.step draw).dev } := by
  induction order generalizing reg with
  | nil => cases hk
  | cons i rest ih =>
    obtain ⟨hi, hnodup⟩ := List.nodup_cons.mp hnodup
    rw [List.foldl_cons]
    rcases List.mem_cons.mp hk with rfl | hk
    · refine foldl_stepDevice_other draw rest _ k _ hi (stepDevice_spec draw reg k g hg) ?_
      rw [isController_step, hctl]
    · have hki : k ≠ i := ne_of_mem_of_not_mem hk hi
      exact ih (stepDevice draw reg i) hk hnodup (stepDevice_other draw reg i k g hki hg hctl)

/-- The bus phase finds a device that is no interrupt controller after its one step. -/
theorem beginEdge_device (s : State) (k : Nat) (g : Registration) (hg : s.registry[k]? = some g)
    (hctl : isController g.dev = false) :
    (beginEdge s).registry[k]? = some { g with dev := (g.dev.step s.draws).dev } := by
  have hlt : k < s.registry.length := (List.getElem?_eq_some_iff.mp hg).1
  exact foldl_stepDevice_of_mem s.draws _ s.registry k g ((mem_deviceOrder _ _ k).mpr hlt) (nodup_deviceOrder _ _) hg hctl

end Sys2Proof.Machine
end

section
/-!
PROOFS. An edge by the requests its engines serve (45_fabric_step.md R240, R241), and what a master that withholds a signal
keeps in place over any number of edges (R249, 70_reset_and_hazards.md R282).
-/

namespace Sys2Proof.Machine

open Sys2Proof.Safety

/-! ## Descriptors and the requests they stand for (30_encoding.md R89) -/

theorem decode_bytes_eq_ok_iff (d : BitVec 16) (i : Instr) :
    decode (bytesOfDescriptor d) = .ok (i, []) ↔ decodeDescriptor d = i := by
  have hdecode := decode_bytes d []
  rw [List.append_nil] at hdecode
  simp [hdecode]

/-- Packing the fields of a descriptor clears bit 11, which the decoder does not read. -/
theorem decodeDescriptor_pack_fields (d : BitVec 16) :
    decodeDescriptor (packDescriptor (descDir d) (descLock d) (descBurst d) (descSize d) (descLen d)) =
      decodeDescriptor d := by
  have hrequest := decodeDescriptor_request d
  refine decodeDescriptor_eq_of_fields _ _ ?_ ?_ ?_ ?_ ?_
  · rw [descDir_pack, hrequest]
  · rw [descLock_pack, hrequest]
  · rw [descBurst_pack, hrequest]
  · rw [descSize_pack, decodeDescriptor_size]
  · rw [descLen_pack, decodeDescriptor_len]

/-- A table word is decoded as the descriptor of its low 16 bits. -/
theorem decodeTableWord_eq_some_iff (w : Nat) (i : Instr) :
    decodeTableWord 16 w = some i ↔ decodeDescriptor (BitVec.ofNat 16 (w % 2 ^ 16)) = i := by
  have hdecode := (decode_bytes_eq_ok_iff (BitVec.ofNat 16 (w % 2 ^ 16)) _).mpr rfl
  have hlt : w % 2 ^ 16 < 2 ^ 16 := Nat.mod_lt _ (Nat.two_pow_pos _)
  rw [decodeTableWord, if_pos hlt, hdecode]
  exact Option.some_inj

/-! ## What an engine serves (R240) -/

theorem runRead_of_fetchRead {s : State} {i : Instr} (h : fetchRead s = some i) : runRead s = exec i s := by
  rw [runRead, h]

theorem runWrite_of_fetchWrite {s : State} {i : Instr} (h : fetchWrite s = some i) : runWrite s = exec i s := by
  rw [runWrite, h]

/-- The request offered to an idle read engine, or the latched one of a busy one. -/
theorem fetchRead_eq_some {s : State} {i : Instr}
    (h : (s.R.state = .idle ∧ s.inp.arvalid = true ∧ decode (bytesOfDescriptor (arDescriptor s.inp)) = .ok (i, [])) ∨
      (s.R.state = .sending ∧ decode (bytesOfDescriptor s.R.descriptor) = .ok (i, []))) :
    fetchRead s = some i := by
  rcases h with ⟨hs, hvalid, hdecode⟩ | ⟨hs, hdecode⟩ <;> obtain rfl := (decode_bytes_eq_ok_iff _ i).mp hdecode
  · simp [fetchRead, hs, hvalid]
  · simp [fetchRead, hs]

/-- The request offered to an idle write engine, or the latched one of a busy one. -/
theorem fetchWrite_eq_some {s : State} {i : Instr}
    (h : (s.W.state = .idle ∧ s.inp.awvalid = true ∧ decode (bytesOfDescriptor (awDescriptor s.inp)) = .ok (i, [])) ∨
      (s.W.state ≠ .idle ∧ decode (bytesOfDescriptor s.W.descriptor) = .ok (i, []))) :
    fetchWrite s = some i := by
  rcases h with ⟨hs, hvalid, hdecode⟩ | ⟨hs, hdecode⟩ <;> obtain rfl := (decode_bytes_eq_ok_iff _ i).mp hdecode
  · simp [fetchWrite, hs, hvalid]
  · cases hstate : s.W.state with
    | idle => exact absurd hstate hs
    | acceptingData => simp [fetchWrite, hstate]
    | responding => simp [fetchWrite, hstate]

/-- The actions before the write evaluation do not change which request it serves. -/
theorem fetchWrite_readPart (s : State) : fetchWrite (readPart s) = fetchWrite s := by
  obtain ⟨-, hW, hinp, -⟩ := readPart_frame s
  rw [fetchWrite, fetchWrite, hW, hinp]

/-- An edge runs the request its read engine serves. -/
theorem step_of_fetchRead {s : State} {i : Instr} (h : fetchRead s = some i) :
    ∃ t u, exec i (beginEdge s) = .next t ∧ runWrite t = .next u ∧ step s = .next (endEdge u) := by
  have hexec := runRead_of_fetchRead (s := beginEdge s) h
  exact ⟨_, _, hexec.symm.trans (runRead_eq _), runWrite_eq _, step_eq s⟩

/-- An edge runs the request its write engine serves, after the read evaluation. -/
theorem step_of_fetchWrite {s : State} {i : Instr} (h : fetchWrite s = some i) :
    ∃ t u, runRead (beginEdge s) = .next t ∧ exec i t = .next u ∧ step s = .next (endEdge u) := by
  have hexec := runWrite_of_fetchWrite ((fetchWrite_readPart (beginEdge s)).trans h)
  exact ⟨_, _, runRead_eq _, hexec.symm.trans (runWrite_eq _), step_eq s⟩

theorem fetchRead_offerRequest (s : State) (d : BitVec 16) (hdir : descDir d = false) :
    fetchRead (offerRequest s d) = some (decodeDescriptor d) := by
  have hoffer : fetchRead (offerRequest s d) =
      some (decodeDescriptor (packDescriptor false (descLock d) (descBurst d) (descSize d) (descLen d))) := by
    simp [offerRequest, hdir, fetchRead, arDescriptor]
  rw [hoffer, ← hdir, decodeDescriptor_pack_fields]

theorem fetchWrite_offerRequest (s : State) (d : BitVec 16) (hdir : descDir d = true) :
    fetchWrite (offerRequest s d) = some (decodeDescriptor d) := by
  have hoffer : fetchWrite (offerRequest s d) =
      some (decodeDescriptor (packDescriptor true (descLock d) (descBurst d) (descSize d) (descLen d))) := by
    simp [offerRequest, hdir, fetchWrite, awDescriptor]
  rw [hoffer, ← hdir, decodeDescriptor_pack_fields]

/-! ## One edge at a withheld signal (R188, R210, R212, R217) -/

section
variable {s t : State} (hstep : step s = .next t)
include hstep

theorem step_R_of_no_request (hs : s.R.state = .idle) (hvalid : s.inp.arvalid = false) : t.R = s.R := by
  rw [step_R hstep, readPart_wait (beginEdge s) hs hvalid, driveReadIdle_R, beginEdge_R]

/-- A stalled read beat, valid or not, changes the cache alone. -/
theorem step_R_of_no_rready (hs : s.R.state = .sending) (hready : s.inp.rready = false) :
    t.R = { s.R with cache := t.R.cache } := by
  rw [step_R hstep, readPart_sending (beginEdge s) hs, beginEdge_R]
  rcases sendRead_R (readLatched s.R) (beginEdge s) with ⟨-, c, hR⟩ | ⟨hhigh, -⟩ | ⟨hhigh, -⟩
  · rw [hR, beginEdge_R]
  · cases hready.symm.trans hhigh
  · cases hready.symm.trans hhigh

/-- The write register after an edge is the write evaluation's, which finds register and wires as before the edge. -/
theorem step_W : ∃ r : State, r.W = s.W ∧ r.inp = s.inp ∧ t.W = (writePart r).W := by
  obtain rfl := (step_eq_next_iff s t).mp hstep
  obtain ⟨-, hW, hinp, -⟩ := readPart_frame (beginEdge s)
  exact ⟨readPart (beginEdge s), hW, hinp, rfl⟩

theorem step_W_of_no_request (hs : s.W.state = .idle) (hvalid : s.inp.awvalid = false) : t.W = s.W := by
  obtain ⟨r, hW, hinp, htW⟩ := step_W hstep
  rw [htW, writePart_wait r (by rw [hW, hs]) (by rw [hinp, hvalid]), driveWriteOpen_W, hW]

theorem step_W_of_no_wvalid (hs : s.W.state = .acceptingData) (hvalid : s.inp.wvalid = false) : t.W = s.W := by
  obtain ⟨r, hW, hinp, htW⟩ := step_W hstep
  rw [htW, writePart_data r (by rw [hW, hs]), acceptWriteData_none _ r (by rw [hinp, hvalid]), driveWriteOpen_W, hW]

theorem step_W_of_no_bready (hs : s.W.state = .responding) (hready : s.inp.bready = false) : t.W = s.W := by
  obtain ⟨r, hW, hinp, htW⟩ := step_W hstep
  rw [htW, writePart_responding r (by rw [hW, hs]), respondWrite_W, hinp, hready, hW]
  rfl

end

/-! ## Any number of edges -/

theorem exists_run (n : Nat) (s : State) : ∃ t, Host.Core.run Sys2Proof.core n s = .next t := by
  induction n generalizing s with
  | zero => exact ⟨s, run_zero s⟩
  | succ n ih => rw [run_succ]; exact ih _

/-- The master keeps a signal low: now, and in every sample it has still to give. -/
def Withholds (signal : MasterWires → Bool) (s : State) : Prop :=
  signal s.inp = false ∧ ∀ w ∈ s.script, signal w = false

/-- An edge brings the next sample, or past the end of `script` the quiet master's. -/
theorem Withholds.step {signal : MasterWires → Bool} {s t : State} (h : Withholds signal s)
    (hquiet : signal .quiet = false) (hstep : step s = .next t) : Withholds signal t := by
  obtain ⟨-, hlow⟩ := h
  obtain ⟨hinp, hscript⟩ := step_wires hstep
  rw [Withholds, hinp, hscript]
  cases hs : s.script with
  | nil => exact ⟨hquiet, nofun⟩
  | cons w rest =>
    rw [hs, List.forall_mem_cons] at hlow
    exact hlow

/-- What an edge keeps while a signal is withheld, a run keeps. -/
theorem run_keeps_of_withholds {signal : MasterWires → Bool} {P : State → Prop} (hquiet : signal .quiet = false)
    (hkeeps : ∀ s t, P s → signal s.inp = false → step s = .next t → P t) {n : Nat} {s t : State}
    (hrun : Host.Core.run Sys2Proof.core n s = .next t) (hlow : Withholds signal s) (hP : P s) : P t := by
  induction n generalizing s with
  | zero =>
    rw [run_zero] at hrun
    cases hrun
    exact hP
  | succ n ih =>
    obtain ⟨u, hstep⟩ : ∃ u, step s = .next u := ⟨_, step_eq s⟩
    rw [run_succ_of_step hstep] at hrun
    exact ih hrun (hlow.step hquiet hstep) (hkeeps s u hP hlow.1 hstep)

/-- A write register that every edge leaves while a signal is withheld stays over a run. -/
theorem run_W_of_withholds {signal : MasterWires → Bool} {wait : WriteState} (hquiet : signal .quiet = false)
    (hkeeps : ∀ {s t : State}, step s = .next t → s.W.state = wait → signal s.inp = false → t.W = s.W) {n : Nat}
    {s t : State} (hrun : Host.Core.run Sys2Proof.core n s = .next t) (hs : s.W.state = wait)
    (hlow : Withholds signal s) : t.W = s.W := by
  refine run_keeps_of_withholds (P := fun u => u.W = s.W) hquiet (fun u v hu hlow hstep => ?_) hrun hlow rfl
  rw [hkeeps hstep (by rw [hu, hs]) hlow, hu]

end Sys2Proof.Machine
end

section
/-!
PROOFS. The statements of 45_fabric_step.md.
-/

namespace Sys2Proof.Proofs

open Sys2Proof.Machine Sys2Proof.Safety

/-- Settles O31: the evaluation writes the beat's device or none, and a device write leaves what its mask does not select. -/
theorem writeChangesOnlyTheBytesItSelects : Obligations.WriteChangesOnlyTheBytesItSelects := by
  intro i s t k off g hdir hs _ htarget hg hexec j x h hh hctl hx
  obtain rfl : evalWrite i.request s = t := Host.Outcome.next.inj ((exec_write i s hdir).symm.trans hexec)
  rcases evalWrite_registry i.request s with hreg | ⟨k', off', htarget', hreg⟩ <;> rw [hreg]
  obtain ⟨rfl, rfl⟩ : k' = k ∧ off' = off := by simpa using htarget'.symm.trans htarget
  exact byteAt_writeDevice s.registry k' off' _ _ _ g h j x hg hh hctl hx

/-- Settles O32: the evaluation reads one device or none, and a device read leaves the bytes of every fixture. -/
theorem readsChangeNoByteOfAFixture : Obligations.ReadsChangeNoByteOfAFixture := by
  intro i s t hdir hexec j x h hh hd
  obtain rfl : evalRead i.request s = t := Host.Outcome.next.inj ((exec_read i s hdir).symm.trans hexec)
  rcases evalRead_registry i.request s with hreg | ⟨k, off, -, hreg⟩ <;> rw [hreg]
  exact byteAt_readDevice_fixture s.registry k off _ h j x hh hd

/-- Settles O33: the lanes go to different offsets, so each selected one is there after the others; no other byte is written. -/
theorem ramWriteStoresTheSelectedLanes : Obligations.RamWriteStoresTheSelectedLanes := by
  intro length mem off v size mask hwf
  constructor
  · intro lane hsize hdata hsel hin
    have hstored := tramStore_same length mem off.toNat v mask _ lane hwf (lt_min hsize hdata) hsel hin
    rw [Device.write, Device.byte_tram, if_pos hin, hstored]
  · intro x hother
    refine Device.byte_write_other (.tram length mem) off v size mask x fun hx => ?_
    obtain ⟨lane, hsize, hdata, hsel, hoff⟩ := (Device.mem_writtenOffsets_tram ..).mp hx
    exact hother lane hsize hdata hsel hoff

/-- Settles O49: the read evaluation passes the write register through, and the write evaluation drives no read wire. -/
theorem readEngineIgnoresTheWriteEngine : Obligations.ReadEngineIgnoresTheWriteEngine := by
  intro s t u w hstep hstep'
  have hread : readPart (beginEdge { s with W := w }) = { readPart (beginEdge s) with W := w } :=
    readPart_with_W (beginEdge s) w
  constructor
  · rw [step_R hstep, step_R hstep', hread]
  · rw [← step_out_join hstep, ← step_out_join hstep', hread]
    exact ⟨rfl, rfl, rfl, rfl, rfl, rfl⟩

/-- Settles O50: each wait is kept by one edge, so by every edge while its signal is withheld. -/
theorem withheldSignalStallsForever : Obligations.WithheldSignalStallsForever := by
  intro n s
  obtain ⟨t, hrun⟩ := exists_run n s
  refine ⟨t, hrun, fun hs hlow hlater => ?_, fun hs hlow hlater => ?_, fun hs hlow hlater => ?_,
    fun hs hlow hlater => ?_, fun hs hlow hlater => ?_⟩
  · refine run_keeps_of_withholds (signal := (·.arvalid)) (P := fun u => u.R = s.R) rfl (fun u v hu hlow hstep => ?_) hrun
      ⟨hlow, hlater⟩ rfl
    rw [step_R_of_no_request hstep (by rw [hu, hs]) hlow, hu]
  · refine run_keeps_of_withholds (signal := (·.rready)) (P := fun u => u.R = { s.R with cache := u.R.cache }) rfl
      (fun u v hu hlow hstep => ?_) hrun ⟨hlow, hlater⟩ rfl
    have hkept := step_R_of_no_rready hstep (by rw [hu, hs]) hlow
    rwa [hu] at hkept
  · exact run_W_of_withholds (signal := (·.awvalid)) rfl step_W_of_no_request hrun hs ⟨hlow, hlater⟩
  · exact run_W_of_withholds (signal := (·.wvalid)) rfl step_W_of_no_wvalid hrun hs ⟨hlow, hlater⟩
  · exact run_W_of_withholds (signal := (·.bready)) rfl step_W_of_no_bready hrun hs ⟨hlow, hlater⟩

/-- Settles O54: the order names each position once, and steps of the others leave a device that is no controller. -/
theorem eachDeviceStepsOncePerEdge : Obligations.EachDeviceStepsOncePerEdge :=
  ⟨fun n first => ⟨deviceOrder_perm n first, deviceOrder_nil n⟩, fun s => ⟨rfl, fun k g hg =>
    ⟨fun reg hreg => stepDevice_spec s.draws reg k g hreg, beginEdge_device s k g hg⟩⟩⟩

/-- Settles O53: the read evaluation finds the register after its one step, and no wire of the beat is driven after it. -/
theorem deviceStepsComeBeforeTheBusPhase : Obligations.DeviceStepsComeBeforeTheBusPhase := by
  intro s k base length c hg
  have hstepped := beginEdge_device s k _ hg rfl
  refine ⟨hstepped, fun off hs hcache htarget => ⟨_, step_eq s, ?_⟩⟩
  have hat : AtReadBeat s k off := ⟨hs, htarget⟩
  obtain ⟨-, hdata, -⟩ := hat.after_beginEdge.presents
  rw [readBeatValue_absent _ k off (beginEdge s) _ hcache hstepped] at hdata
  rw [← step_out_join (step_eq s)]
  exact hdata

/-- Settles O36: by whether the call is on this device, and then by whether it is its own or the device is no controller. -/
theorem interruptCallsReachOnlyTheirController : Obligations.InterruptCallsReachOnlyTheirController := by
  intro caller reg c j g hg
  split
  next h =>
    obtain ⟨rfl, hcaller, -⟩ := h
    exact deliverIrq_target caller reg c g hcaller hg
  next h =>
    by_cases htarget : c.target = j
    · refine deliverIrq_getElem? caller reg c j g hg (or_iff_not_imp_left.mpr fun hcaller => ?_)
      simpa [htarget, hcaller] using h
    · rw [deliverIrq_of_target_ne caller reg c j htarget, hg]

/-- Settles O42: an edge ends in the state its four actions give, and each direction's kinds in that of their evaluation. -/
theorem everyStateHasANextState : Obligations.EveryStateHasANextState := by
  refine ⟨fun s => ⟨_, step_eq s⟩, fun i s => ?_⟩
  cases hdir : i.request.dir with
  | false => exact ⟨_, exec_read i s hdir⟩
  | true => exact ⟨_, exec_write i s hdir⟩

/-- Settles O43: what each engine serves is what it fetches, and without a request its evaluation only drives the wires. -/
theorem stepRunsTheRequestsServed : Obligations.StepRunsTheRequestsServed := by
  refine fun s => ⟨fun i h => step_of_fetchRead (fetchRead_eq_some h), fun i h => step_of_fetchWrite (fetchWrite_eq_some h),
    fun hs hvalid => ?_, fun hs hvalid => ⟨_, runRead_eq _, ?_⟩⟩
  · rw [runRead_eq, readPart_wait (beginEdge s) hs hvalid]
  · obtain ⟨-, hW, hinp, -⟩ := readPart_frame (beginEdge s)
    rw [step_eq, writePart_wait _ (by rw [hW]; exact hs) (by rw [hinp]; exact hvalid)]

/-- Settles O44: the engine of the placed request's channel is idle and fetches it from the wires. -/
theorem placedRequestRunsNext : Obligations.PlacedRequestRunsNext := by
  intro s w i hword
  obtain rfl := (decodeTableWord_eq_some_iff w i).mp hword
  rw [decodeDescriptor_request]
  exact ⟨fun hdir => step_of_fetchRead (fetchRead_offerRequest s _ hdir),
    fun hdir => step_of_fetchWrite (fetchWrite_offerRequest s _ hdir)⟩

end Sys2Proof.Proofs
end

section
/-!
PROOFS. The read burst of a ready master, edge by edge (70_reset_and_hazards.md R291): what a run keeps, the register while each
beat is due, and the wires of the edge that delivers it.
-/

namespace Sys2Proof.Machine

open Sys2Proof.Safety

/-! ## Runs by their first and by their last edge -/

/-- A run of at least one edge goes through the state after its first. -/
theorem exists_first_step {n : Nat} {s t : State} (hrun : Host.Core.run Sys2Proof.core (n + 1) s = .next t) :
    ∃ u, step s = .next u ∧ Host.Core.run Sys2Proof.core n u = .next t := by
  have hstep := step_eq s
  exact ⟨_, hstep, (run_succ_of_step hstep n).symm.trans hrun⟩

/-- One more edge after a run. -/
theorem run_snoc {n : Nat} {s t u : State} (hrun : Host.Core.run Sys2Proof.core n s = .next t)
    (hstep : step t = .next u) : Host.Core.run Sys2Proof.core (n + 1) s = .next u := by
  induction n generalizing s with
  | zero =>
    rw [run_zero] at hrun
    cases hrun
    rw [run_succ_of_step hstep, run_zero]
  | succ n ih =>
    obtain ⟨v, hfirst, hrest⟩ := exists_first_step hrun
    rw [run_succ_of_step hfirst]
    exact ih hrest

/-- Which device a beat decodes to is the same all through a run (R24). -/
theorem beatDevice_run {n : Nat} {s t : State} (hrun : Host.Core.run Sys2Proof.core n s = .next t) (q : Request)
    (start : Addr) (beat : Nat) : beatDevice t q start beat = beatDevice s q start beat := by
  induction n generalizing s with
  | zero =>
    rw [run_zero] at hrun
    cases hrun
    rfl
  | succ n ih =>
    obtain ⟨u, hfirst, hrest⟩ := exists_first_step hrun
    rw [ih hrest, beatDevice_step hfirst]

/-- After `n + 1` edges the wires are sample `n` of the script. -/
theorem run_inp {n : Nat} {s t : State} {w : MasterWires} (hrun : Host.Core.run Sys2Proof.core (n + 1) s = .next t)
    (hw : s.script[n]? = some w) : t.inp = w := by
  induction n generalizing s with
  | zero =>
    obtain ⟨u, hfirst, hrest⟩ := exists_first_step hrun
    obtain ⟨hinp, -⟩ := step_wires hfirst
    rw [run_zero] at hrest
    cases hrest
    rw [hinp, List.headD_eq_head?_getD, List.head?_eq_getElem?, hw, Option.getD_some]
  | succ n ih =>
    obtain ⟨u, hfirst, hrest⟩ := exists_first_step hrun
    obtain ⟨-, hscript⟩ := step_wires hfirst
    exact ih hrest (by rw [hscript, List.getElem?_tail, hw])

/-! ## One edge of a read burst (R181, R185 to R189) -/

/-- Burst-last is driven at the beat that ends the burst: the last one, or a decode error (R185, R187). -/
theorem sendRead_out_rlast (q : Request) (s : State) :
    (sendRead q s).out.rlast = decide (readBeatTarget q s = none ∨ s.R.beat = q.len.toNat) := by
  cases ht : readBeatTarget q s with
  | none =>
    rw [sendRead_out_invalid q s ht]
    simp [readDecodeError]
  | some p =>
    rw [sendRead_out_valid q s p.1 p.2 ht, presentReadBeat_out_rlast]
    simp

/-- The response of a read beat as it stands on the wires (R185, R187). -/
theorem sendRead_out_rresp_code (q : Request) (s : State) :
    (sendRead q s).out.rresp =
      (if readBeatTarget q s = none then 0b11#2 else if q.lock then 0b01#2 else 0b00#2) := by
  rw [sendRead_out_rresp]
  cases readBeatTarget q s with
  | none => rfl
  | some p => exact readBeatResp_code q.lock

section
variable {s t : State} {target : Option (Nat × Addr)} (hstep : step s = .next t)
include hstep

/-- An edge that accepts a read. -/
theorem step_R_of_request (hs : s.R.state = .idle) (hvalid : s.inp.arvalid = true) :
    t.R = (acceptRead (readOffered s.inp) s).R := by
  rw [step_R hstep, readPart_accept (beginEdge s) hs hvalid]
  rfl

/-- An edge that hands a beat over: the register of R189. -/
theorem step_R_of_rready (hs : s.R.state = .sending) (hready : s.inp.rready = true)
    (htarget : beatDevice s (readLatched s.R) s.R.addr s.R.beat = target) :
    t.R =
      if target = none ∨ s.R.beat = s.R.len.toNat then { s.R with cache := none, state := .idle }
      else { s.R with cache := none, beat := s.R.beat + 1 } := by
  rw [← htarget, ← beatDevice_beginEdge, step_R hstep, readPart_sending (beginEdge s) hs]
  exact sendRead_R_ready (readLatched s.R) (beginEdge s) hready

/-- An edge that presents a beat: burst-last and the response. -/
theorem step_out_of_sending (hs : s.R.state = .sending)
    (htarget : beatDevice s (readLatched s.R) s.R.addr s.R.beat = target) :
    t.out.rlast = decide (target = none ∨ s.R.beat = s.R.len.toNat) ∧
      t.out.rresp = (if target = none then 0b11#2 else if s.R.lock then 0b01#2 else 0b00#2) := by
  have hout : (sendRead (readLatched s.R) (beginEdge s)).out.join t.out = t.out := by
    rw [← step_out_join hstep, readPart_sending (beginEdge s) hs]
    rfl
  obtain rfl : readBeatTarget (readLatched s.R) (beginEdge s) = target :=
    (beatDevice_beginEdge s _ _ _).trans htarget
  rw [← hout]
  exact ⟨sendRead_out_rlast (readLatched s.R) (beginEdge s), sendRead_out_rresp_code (readLatched s.R) (beginEdge s)⟩

end

/-! ## A read burst over edges (R189, R291) -/

/-- The device and offset of beat `j` of the read that `s` offers, none when it is a decode error. -/
abbrev offeredReadDevice (s : State) (j : Nat) : Option (Nat × Addr) :=
  beatDevice s (readOffered s.inp) s.inp.araddr j

/-- The read register while beat `j` is due of the read that `s` offers. -/
def readRegAt (s : State) (j : Nat) : ReadReg :=
  { (acceptRead (readOffered s.inp) s).R with cache := none, beat := j }

/-- A state offers a read to its idle engine, and in the `m + 1` edges after its acceptance the master is ready; the beats
before `m` are valid ones of the burst. -/
structure ReadBurstReady (s : State) (m : Nat) : Prop where
  idle : s.R.state = .idle
  uncached : s.R.cache = none
  request : s.inp.arvalid = true
  withinLen : m ≤ s.inp.arlen.toNat
  ready : ∀ j, j ≤ m → ∃ w, s.script[j]? = some w ∧ w.rready = true
  valid : ∀ j, j < m → (offeredReadDevice s j).isSome = true

theorem ReadBurstReady.of_succ {s : State} {m : Nat} (h : ReadBurstReady s (m + 1)) : ReadBurstReady s m where
  idle := h.idle
  uncached := h.uncached
  request := h.request
  withinLen := Nat.le_of_succ_le h.withinLen
  ready := fun j hj => h.ready j (Nat.le_succ_of_le hj)
  valid := fun j hj => h.valid j (Nat.lt_succ_of_lt hj)

/-- `u` is the state after the edge that delivered beat `j` of the read that `s` offers: the beat on the wires, and the
register after its handshake. -/
structure ReadBeatDelivered (s : State) (j : Nat) (u : State) : Prop where
  rvalid : u.out.rvalid = true
  rid : u.out.rid = s.params.fitId s.inp.arid
  rlast : u.out.rlast = decide (offeredReadDevice s j = none ∨ j = s.inp.arlen.toNat)
  rresp : u.out.rresp =
    (if offeredReadDevice s j = none then 0b11#2 else if s.inp.arlock then 0b01#2 else 0b00#2)
  register : u.R =
    if offeredReadDevice s j = none ∨ j = s.inp.arlen.toNat then { readRegAt s j with state := .idle }
    else readRegAt s (j + 1)

/-- An edge at a due beat delivers it. -/
theorem readBeatDelivered_of_step {s t u : State} {j : Nat} (hR : t.R = readRegAt s j)
    (hdevice : ∀ q start beat, beatDevice t q start beat = beatDevice s q start beat) (hready : t.inp.rready = true)
    (hstep : step t = .next u) : ReadBeatDelivered s j u := by
  have hs : t.R.state = .sending := by rw [hR]; rfl
  have htarget : beatDevice t (readLatched t.R) t.R.addr t.R.beat = offeredReadDevice s j := by
    rw [hdevice, hR]
    rfl
  obtain ⟨-, hrvalid, -, -, -, hrid, -⟩ := Proofs.handshakeWiresFollowTheState t u hstep
  obtain ⟨hrlast, hrresp⟩ := step_out_of_sending hstep hs htarget
  have hregister := step_R_of_rready hstep hs hready htarget
  rw [hR] at hrlast hrresp hregister
  exact ⟨by rw [hrvalid, hs]; rfl, by rw [hrid hs, hR]; rfl, hrlast, hrresp, hregister⟩

/-- A valid beat before the last leaves the next one due. -/
theorem ReadBeatDelivered.goes_on {s u : State} {j : Nat} (h : ReadBeatDelivered s j u)
    (hvalid : (offeredReadDevice s j).isSome = true) (hmore : j < s.inp.arlen.toNat) :
    u.R = readRegAt s (j + 1) ∧ u.out.rlast = false ∧
      u.out.rresp = (if s.inp.arlock then 0b01#2 else 0b00#2) := by
  have hsome := Option.isSome_iff_ne_none.mp hvalid
  have hgoes : ¬(offeredReadDevice s j = none ∨ j = s.inp.arlen.toNat) := not_or.mpr ⟨hsome, hmore.ne⟩
  exact ⟨h.register.trans (if_neg hgoes), h.rlast.trans (decide_eq_false hgoes), h.rresp.trans (if_neg hsome)⟩

/-- From the state in which beat `m` is due, one more edge delivers it. -/
theorem ReadBurstReady.run_deliver {s t : State} {m : Nat} (h : ReadBurstReady s m)
    (hrun : Host.Core.run Sys2Proof.core (m + 1) s = .next t) (hR : t.R = readRegAt s m) :
    ∃ u, Host.Core.run Sys2Proof.core (m + 2) s = .next u ∧ ReadBeatDelivered s m u := by
  obtain ⟨w, hw, hready⟩ := h.ready m le_rfl
  have hstep := step_eq t
  exact ⟨_, run_snoc hrun hstep,
    readBeatDelivered_of_step hR (beatDevice_run hrun) (by rw [run_inp hrun hw, hready]) hstep⟩

/-- One edge accepts the read and each further one delivers a beat, so after `m + 1` edges beat `m` is due. -/
theorem ReadBurstReady.run_due {s : State} {m : Nat} (h : ReadBurstReady s m) :
    ∃ t, Host.Core.run Sys2Proof.core (m + 1) s = .next t ∧ t.R = readRegAt s m := by
  induction m with
  | zero =>
    have hstep := step_eq s
    refine ⟨_, run_snoc (run_zero s) hstep, ?_⟩
    rw [step_R_of_request hstep h.idle h.request, readRegAt, ← h.uncached]
    rfl
  | succ m ih =>
    obtain ⟨t, hrun, hR⟩ := ih h.of_succ
    obtain ⟨u, hrun', hbeat⟩ := h.of_succ.run_deliver hrun hR
    obtain ⟨hR', -⟩ := hbeat.goes_on (h.valid m m.lt_succ_self) h.withinLen
    exact ⟨u, hrun', hR'⟩

/-- So `m + 2` edges deliver beat `m`. -/
theorem ReadBurstReady.run_delivered {s : State} {m : Nat} (h : ReadBurstReady s m) :
    ∃ u, Host.Core.run Sys2Proof.core (m + 2) s = .next u ∧ ReadBeatDelivered s m u := by
  obtain ⟨t, hrun, hR⟩ := h.run_due
  exact h.run_deliver hrun hR

end Sys2Proof.Machine
end

section
/-!
PROOFS. The write burst of a ready master, edge by edge: its acceptance, its data phase and its one response.
-/

namespace Sys2Proof.Machine

open Sys2Proof.Safety

/-! ## The response that a data beat leaves pending (R214, R215) -/

/-- DECERR for a beat without a device, else the response of its lock and its reservation match. -/
def dataBeatResp (target : Option (Nat × Addr)) (lock hit : Bool) : Resp :=
  if target = none then .decerr else writeBeatResp lock hit

/-- A valid beat's response is not DECERR, so the code 0b11 says a decode error. -/
theorem dataBeatResp_code_eq_decerr_iff (target : Option (Nat × Addr)) (lock hit : Bool) :
    (dataBeatResp target lock hit).code = 0b11#2 ↔ target = none := by
  cases target with
  | none => simp [dataBeatResp, Resp.code]
  | some p => cases lock <;> cases hit <;> simp [dataBeatResp, writeBeatResp, Resp.code]

theorem dataBeatResp_of_unlocked (target : Option (Nat × Addr)) (lock hit : Bool) (hlock : lock = false)
    (hvalid : target ≠ none) : dataBeatResp target lock hit = .okay := by
  rw [dataBeatResp, if_neg hvalid, hlock]
  rfl

/-- The register after a data beat: its response is pending, and the data phase is over at a decode error or at the beat marked
last, whatever `len` is (R214 to R216). -/
theorem acceptWriteData_W_of_wvalid (q : Request) (s : State) (hvalid : s.inp.wvalid = true) :
    (acceptWriteData q s).W =
      if writeBeatTarget q s = none ∨ s.inp.wlast = true then
        { s.W with
          pending := dataBeatResp (writeBeatTarget q s) q.lock (s.M.hit (writeBeatAddr q s))
          state := .responding }
      else
        { s.W with
          pending := dataBeatResp (writeBeatTarget q s) q.lock (s.M.hit (writeBeatAddr q s))
          beat := s.W.beat + 1 } := by
  cases ht : writeBeatTarget q s with
  | none =>
    rw [acceptWriteData_invalid q s ht hvalid, if_pos (.inl rfl)]
    rfl
  | some p =>
    rw [acceptWriteData_valid q s p.1 p.2 ht hvalid, takeWriteBeat_W]
    cases hl : s.inp.wlast <;> simp [dataBeatResp, hl]

/-! ## One edge of a write burst (R211, R214 to R218) -/

section
variable {s t : State} (hstep : step s = .next t)
include hstep

/-- The write evaluation of an edge finds the register, the wires, the parameters and the decoding as before the edge. -/
theorem step_W_at_readPart :
    ∃ r : State, r.W = s.W ∧ r.inp = s.inp ∧ r.params = s.params ∧
      (∀ q start beat, beatDevice r q start beat = beatDevice s q start beat) ∧ t.W = (writePart r).W := by
  obtain rfl := (step_eq_next_iff s t).mp hstep
  obtain ⟨hparams, hW, hinp, -⟩ := readPart_frame (beginEdge s)
  exact ⟨readPart (beginEdge s), hW, hinp, hparams,
    fun q start beat => (beatDevice_readPart _ q start beat).trans (beatDevice_beginEdge s q start beat), rfl⟩

/-- An edge that accepts a write. -/
theorem step_W_of_request (hs : s.W.state = .idle) (hvalid : s.inp.awvalid = true) :
    t.W = (acceptWrite (writeOffered s.inp) s).W := by
  obtain ⟨r, hW, hinp, hparams, -, htW⟩ := step_W_at_readPart hstep
  rw [htW, writePart_accept r (by rw [hW, hs]) (by rw [hinp, hvalid])]
  simp only [acceptWrite, hW, hinp, hparams]

/-- An edge that takes a data beat. -/
theorem step_W_of_wvalid {target : Option (Nat × Addr)} (hs : s.W.state = .acceptingData) (hvalid : s.inp.wvalid = true)
    (htarget : beatDevice s (writeLatched s.W) s.W.addr s.W.beat = target) :
    ∃ hit, t.W =
      if target = none ∨ s.inp.wlast = true then
        { s.W with pending := dataBeatResp target s.W.lock hit, state := .responding }
      else { s.W with pending := dataBeatResp target s.W.lock hit, beat := s.W.beat + 1 } := by
  obtain ⟨r, hW, hinp, -, hdevice, htW⟩ := step_W_at_readPart hstep
  have hdata := acceptWriteData_W_of_wvalid (writeLatched r.W) r (by rw [hinp, hvalid])
  rw [← writePart_data r (by rw [hW, hs]), ← htW] at hdata
  rw [← htarget, ← hdevice, ← hW, ← hinp]
  exact ⟨_, hdata⟩

/-- An edge that hands the response over. -/
theorem step_W_of_bready (hs : s.W.state = .responding) (hready : s.inp.bready = true) :
    t.W = { s.W with state := .idle } := by
  obtain ⟨r, hW, hinp, -, -, htW⟩ := step_W_at_readPart hstep
  rw [htW, writePart_responding r (by rw [hW, hs]), respondWrite_W, hinp, if_pos hready, hW]

end

/-! ## A write burst over edges (R216, R291) -/

/-- The device and offset of beat `j` of the write that `s` offers, none when it is a decode error. -/
abbrev offeredWriteDevice (s : State) (j : Nat) : Option (Nat × Addr) :=
  beatDevice s (writeOffered s.inp) s.inp.awaddr j

/-- The write register while beat `j` is due of the write that `s` offers, the beats before it having left `p` pending. -/
def writeRegAt (s : State) (j : Nat) (p : Resp) : WriteReg :=
  { (acceptWrite (writeOffered s.inp) s).W with beat := j, pending := p }

/-- A state offers a write to its idle engine, and in the `m + 1` edges after its acceptance the master has data; the beats
before `m` are valid and not marked last. -/
structure WriteBurstReady (s : State) (m : Nat) : Prop where
  idle : s.W.state = .idle
  request : s.inp.awvalid = true
  data : ∀ j, j ≤ m → ∃ w, s.script[j]? = some w ∧ w.wvalid = true ∧ (j < m → w.wlast = false)
  valid : ∀ j, j < m → (offeredWriteDevice s j).isSome = true

theorem WriteBurstReady.of_succ {s : State} {m : Nat} (h : WriteBurstReady s (m + 1)) : WriteBurstReady s m where
  idle := h.idle
  request := h.request
  data := fun j hj => by
    obtain ⟨w, hw, hvalid, hmore⟩ := h.data j (Nat.le_succ_of_le hj)
    exact ⟨w, hw, hvalid, fun hlt => hmore (Nat.lt_succ_of_lt hlt)⟩
  valid := fun j hj => h.valid j (Nat.lt_succ_of_lt hj)

/-- From the state in which beat `m` is due, one more edge takes it. -/
theorem WriteBurstReady.run_take {s t : State} {m : Nat} {p : Resp} {w : MasterWires} (h : WriteBurstReady s m)
    (hrun : Host.Core.run Sys2Proof.core (m + 1) s = .next t) (hW : t.W = writeRegAt s m p)
    (hw : s.script[m]? = some w) :
    ∃ u hit, Host.Core.run Sys2Proof.core (m + 2) s = .next u ∧ u.W =
      if offeredWriteDevice s m = none ∨ w.wlast = true then
        { writeRegAt s m (dataBeatResp (offeredWriteDevice s m) s.inp.awlock hit) with state := .responding }
      else writeRegAt s (m + 1) (dataBeatResp (offeredWriteDevice s m) s.inp.awlock hit) := by
  obtain ⟨w', hw', hvalid, -⟩ := h.data m le_rfl
  obtain rfl : w = w' := Option.some.inj (hw.symm.trans hw')
  have hinp := run_inp hrun hw
  have hstep := step_eq t
  have htarget : beatDevice t (writeLatched t.W) t.W.addr t.W.beat = offeredWriteDevice s m := by
    rw [beatDevice_run hrun, hW]
    rfl
  obtain ⟨hit, htaken⟩ := step_W_of_wvalid hstep (by rw [hW]; rfl) (by rw [hinp, hvalid]) htarget
  rw [hinp, hW] at htaken
  exact ⟨_, hit, run_snoc hrun hstep, htaken⟩

/-- One edge accepts the write and each further one takes a beat, so after `m + 1` edges beat `m` is due. -/
theorem WriteBurstReady.run_due {s : State} {m : Nat} (h : WriteBurstReady s m) :
    ∃ t p, Host.Core.run Sys2Proof.core (m + 1) s = .next t ∧ t.W = writeRegAt s m p := by
  induction m with
  | zero =>
    have hstep := step_eq s
    exact ⟨_, s.W.pending, run_snoc (run_zero s) hstep, step_W_of_request hstep h.idle h.request⟩
  | succ m ih =>
    obtain ⟨t, p, hrun, hW⟩ := ih h.of_succ
    obtain ⟨w, hw, -, hmore⟩ := h.data m m.le_succ
    obtain ⟨u, hit, hrun', htaken⟩ := h.of_succ.run_take hrun hW hw
    have hsome := Option.isSome_iff_ne_none.mp (h.valid m m.lt_succ_self)
    have hgoes : ¬(offeredWriteDevice s m = none ∨ w.wlast = true) :=
      not_or.mpr ⟨hsome, Bool.eq_false_iff.mp (hmore m.lt_succ_self)⟩
    exact ⟨u, _, hrun', htaken.trans (if_neg hgoes)⟩

/-- A beat that ends the data phase leaves its response due after `m + 2` edges. -/
theorem WriteBurstReady.run_responding {s : State} {m : Nat} {w : MasterWires} (h : WriteBurstReady s m)
    (hw : s.script[m]? = some w) (hend : offeredWriteDevice s m = none ∨ w.wlast = true) :
    ∃ u hit, Host.Core.run Sys2Proof.core (m + 2) s = .next u ∧ u.W =
      { writeRegAt s m (dataBeatResp (offeredWriteDevice s m) s.inp.awlock hit) with state := .responding } := by
  obtain ⟨t, p, hrun, hW⟩ := h.run_due
  obtain ⟨u, hit, hrun', htaken⟩ := h.run_take hrun hW hw
  exact ⟨u, hit, hrun', htaken.trans (if_pos hend)⟩

/-- The next edge hands that response over and leaves the engine idle. -/
theorem WriteBurstReady.run_responded {s : State} {m : Nat} {wm wr : MasterWires} (h : WriteBurstReady s m)
    (hwm : s.script[m]? = some wm) (hend : offeredWriteDevice s m = none ∨ wm.wlast = true)
    (hwr : s.script[m + 1]? = some wr) (hready : wr.bready = true) :
    ∃ t hit, Host.Core.run Sys2Proof.core (m + 3) s = .next t ∧ t.W.state = .idle ∧ t.out.bvalid = true ∧
      t.out.bid = s.params.fitId s.inp.awid ∧
      t.out.bresp = (dataBeatResp (offeredWriteDevice s m) s.inp.awlock hit).code := by
  obtain ⟨u, hit, hrun, hW⟩ := h.run_responding hwm hend
  have hs : u.W.state = .responding := by rw [hW]
  have hstep := step_eq u
  obtain ⟨-, -, -, -, hbvalid, -, hresponse⟩ := Proofs.handshakeWiresFollowTheState u _ hstep
  obtain ⟨hbid, hbresp⟩ := hresponse hs
  have hidle := step_W_of_bready hstep hs (by rw [run_inp hrun hwr, hready])
  rw [hW] at hbid hbresp
  exact ⟨_, hit, run_snoc hrun hstep, by rw [hidle], by rw [hbvalid, hs]; rfl, hbid, hbresp⟩

end Sys2Proof.Machine
end

section
/-!
PROOFS. The statements of 70_reset_and_hazards.md about whole transactions.
-/

namespace Sys2Proof.Proofs

open Sys2Proof.Machine Sys2Proof.Safety

/-- Settles O58: each beat is due one edge after the one before it, until a delivered beat ends the burst. -/
theorem readBurstRunsBeatByBeat : Obligations.ReadBurstRunsBeatByBeat := by
  rintro s _ m hidle hcache hrequest rfl hlen hready hvalid
  have h : ReadBurstReady s m := ⟨hidle, hcache, hrequest, hlen, hready, hvalid⟩
  constructor
  · cases m with
    | zero =>
      obtain ⟨t, hrun, hR⟩ := h.run_due
      exact ⟨t, hrun, by rw [hR]; rfl, by rw [hR]; rfl, fun hpos => absurd hpos (lt_irrefl 0)⟩
    | succ m =>
      obtain ⟨t, hrun, hbeat⟩ := h.of_succ.run_delivered
      obtain ⟨hR, hrlast, hrresp⟩ := hbeat.goes_on (hvalid m m.lt_succ_self) hlen
      exact ⟨t, hrun, by rw [hR]; rfl, by rw [hR]; rfl, fun _ => ⟨hbeat.rvalid, hrlast, hrresp⟩⟩
  · intro hend
    obtain ⟨t, hrun, hbeat⟩ := h.run_delivered
    have hidle' : t.R = { readRegAt s m with state := .idle } := hbeat.register.trans (if_pos hend.symm)
    exact ⟨t, hrun, by rw [hidle'], hbeat.rvalid, hbeat.rlast.trans (decide_eq_true hend.symm), hbeat.rid, hbeat.rresp⟩

/-- Settles O59: each beat is due one edge after the one before it; the one that ends the data phase leaves its response
pending, which the next edge hands over. -/
theorem writeBurstRunsBeatByBeat : Obligations.WriteBurstRunsBeatByBeat := by
  rintro s _ m hidle hrequest rfl hdata hvalid
  have h : WriteBurstReady s m := ⟨hidle, hrequest, hdata, hvalid⟩
  constructor
  · obtain ⟨t, p, hrun, hW⟩ := h.run_due
    exact ⟨t, hrun, by rw [hW]; rfl, by rw [hW]; rfl⟩
  · intro wm wr hwm hend hwr hready
    obtain ⟨t, hit, hrun, hstate, hbvalid, hbid, hbresp⟩ := h.run_responded hwm hend.symm hwr hready
    refine ⟨t, hrun, hstate, hbvalid, hbid, ?_, fun hlock hsome => ?_⟩
    · rw [hbresp, dataBeatResp_code_eq_decerr_iff]
    · have hokay : dataBeatResp (offeredWriteDevice s m) s.inp.awlock hit = .okay :=
        dataBeatResp_of_unlocked _ _ hit hlock hsome
      rw [hbresp, hokay]
      rfl

end Sys2Proof.Proofs
end

section
/-!
PROOFS. The statement of 95_test_vectors.md section 1 about the devices of the vectors that hold one register.
-/

namespace Sys2Proof.Proofs

/-- Settles O35: each equation is the device's own branch of `Device.read`, `Device.write` or `Device.step`. -/
theorem counterAndTickFixtures : Obligations.CounterAndTickFixtures :=
  fun _ _ _ _ _ _ => ⟨rfl, rfl, rfl, rfl, rfl, rfl⟩

end Sys2Proof.Proofs
end
